-- ==== Sys2Proof/Word.lean ====
section
/-! DEFINITION. The words of the sensor register framer: a sensor register byte, the host's command word
(rule R60), a raw axis value (`RAW`, rule R26) and a scaled one (`ACC`, rule R26). -/

namespace Sys2Proof

/-- One byte: a sensor register, a frame byte, a reply byte (rules R7, R12). -/
abbrev Byte := BitVec 8

/-- The command word `CW` of `CMD_W` = 32 bits (rules R6, R60). -/
abbrev CmdWord := BitVec 32

/-- One assembled axis, signed 16-bit two's complement (rules R14, R26). -/
abbrev Raw := BitVec 16

/-- One scaled axis, signed two's complement of `ACC_W` = 32 bits (rules R6, R14, R26). -/
abbrev Acc := BitVec 32

/-- The stored full-scale code, 2 bits (rules R8, R21). -/
abbrev FsCode := BitVec 2

end Sys2Proof
end

