-- ==== Sys2Proof/Config.lean ====
section
/-! DEFINITION. What one block is built with: the open parameters of the record `CFG` (rule R6; the list "Open parameters in
one place" of 92_eei_decisions.md), and the one free value of the model, the environment's answer to a transport call. -/

namespace Sys2Proof

/-- The two transport variants, a closed set (rule R2). -/
inductive Bus where
  /-- D0's addressed bus, two-wire. -/
  | i2c
  /-- D0's chip-select bus, four-wire. -/
  | spi
  deriving DecidableEq, Repr

/-- The hardware strap that selects one of the two device addresses (rule R6, field `DEV_ADDR`). -/
inductive Strap where
  | lo
  | hi
  deriving DecidableEq, Repr

/-- The open parameters of `CFG` (rule R6). The fields of `CFG` that D0 or a decision fixes are constants of
Sys2Proof/Machine/RegMap.lean. No step changes a `Cfg` (rule R24). -/
structure Cfg where
  /-- `BUS`. -/
  bus : Bus
  /-- Which of the two addresses `DEV_ADDR` is. -/
  strap : Strap
  /-- `I2C_ADDR_LO`. -/
  addrLo : BitVec 7
  /-- `I2C_ADDR_HI`. -/
  addrHi : BitVec 7
  /-- `REG_CTRL_RATE`. -/
  regCtrlRate : Byte
  /-- `REG_CTRL_SCALE`. -/
  regCtrlScale : Byte
  /-- `REG_CTRL_SIM`. -/
  regCtrlSim : Byte
  /-- `SIM_BIT`, a bit position of one byte. -/
  simBit : Fin 8
  /-- `SIM_FOUR_WIRE`, the value of the protocol bit that selects four-wire. -/
  simFourWire : BitVec 1
  /-- `FRAC`, 0 to 26. -/
  frac : Fin 27
  deriving DecidableEq, Repr

/-- `DEV_ADDR`: "one of two fixed 7-bit values selected by a hardware strap" (rule R6). -/
def Cfg.devAddr (c : Cfg) : BitVec 7 :=
  match c.strap with
  | .lo => c.addrLo
  | .hi => c.addrHi

/-- Six bytes: the working registers `RXBUF[0..5]` (rule R26) and the response field `data[0..5]` (rule R70). -/
structure Bytes6 where
  b0 : Byte
  b1 : Byte
  b2 : Byte
  b3 : Byte
  b4 : Byte
  b5 : Byte
  deriving DecidableEq, Repr, Inhabited

/-- What the transport and the sensor answer to one transport call (rules R3, R9, R98). A call that asks for `n`
bytes takes the first `n` of the six; a write takes none. -/
inductive Answer where
  /-- `Ok`, with the reply bytes, first byte first. -/
  | ok (bytes : Bytes6)
  /-- `Fail`. -/
  | fail
  /-- The call never returns (rule R98). -/
  | never
  deriving DecidableEq, Repr, Inhabited

/-- THE FREE VALUE of the model (log entry 5): the answer to transport call number `k` when the state lists no answer for it.
Rules R3, R56 and U3, U4, U6 of 93_implementation_defined.md: the block assumes nothing of it. No body: a statement
about it holds for every value. -/
opaque Config.freeAnswer (k : Nat) : Answer

end Sys2Proof
end

