-- ==== Sys2Proof/Machine/RegMap.lean ====
section
/-! DEFINITION. D0's Register Map component (rules R4, R6, R30 to R35): the constants of `CFG` that D0 or a decision fixes,
and the default values of its open parameters. "Pure constant data ... No behavior; consumed by all other components". -/

namespace Sys2Proof.Machine

/-- `REG_ID` (rules R6, R34). -/
def regId : Byte := 0x0F
/-- `ID_EXPECT` (rules R6, R34). -/
def idExpect : Byte := 0x33
/-- `REG_OUT_X_L` (rules R6, R35). -/
def regOutXL : Byte := 0x28
/-- `BURST_LEN` (rule R6). -/
def burstLen : Nat := 6
/-- `MAX_BURST` (rules R6, R46). -/
def maxBurst : Nat := 6
/-- `RATE_MAX` (rules R6, R31): modes 0 to 9 are legal (log entry 4). -/
def rateMax : BitVec 4 := 9
/-- `RATE_ON` (rule R6): "mode 7 (power-on default)". -/
def rateOn : BitVec 4 := 7
/-- `RATE_OFF` (rule R6): "mode 0 (power-down)". -/
def rateOff : BitVec 4 := 0
/-- The data-rate field, bits [7:4] (rule R112: mask 0xF0). -/
def rateMask : Byte := 0xF0
/-- `RATE_LO` (rule R6). -/
def ratePos : Nat := 4
/-- The full-scale field, bits [5:4] (rule R112: mask 0x30). -/
def fsMask : Byte := 0x30
/-- `FS_LO` (rule R6). -/
def fsPos : Nat := 4
/-- The SPI protocol bit (rule R112: mask `1 << SIM_BIT`). -/
def simMask (c : Cfg) : Byte := 1#8 <<< c.simBit.val

/-- The default `CFG` of rule R6 for a bus and a strap. PRESUMED: the addresses and the protocol bit are the spec's
defaults from general knowledge (decisions D5 to D8, log entry 3). -/
def defaultCfg (bus : Bus) (strap : Strap) : Cfg where
  bus := bus
  strap := strap
  addrLo := 0x18
  addrHi := 0x19
  regCtrlRate := 0x20
  regCtrlScale := 0x23
  regCtrlSim := 0x23
  simBit := 0
  simFourWire := 0
  frac := 16

end Sys2Proof.Machine
end

