-- ==== Sys2Proof/Syntax.lean ====
section
/-! DEFINITION. The commands of the block, one constructor per row of spec/opcode_table.json (rule R64), with the
operands of rule R65. -/

namespace Sys2Proof

/-- The operand of `SETSPI` (rule R62): `ARG[0]` = 0 four-wire, 1 three-wire. -/
inductive SpiMode where
  /-- `W4`. -/
  | fourWire
  /-- `W3`. -/
  | threeWire
  deriving DecidableEq, Repr

/-- The commands of rule R64. `pwron` and `pwroff` are the two pseudo-commands of rule R80: an assembler writes
them, their words decode as `setrate` (log entry 13). -/
inductive Instr where
  /-- `RDREG reg, len` (rule R100). -/
  | rdreg (reg : Byte) (len : BitVec 4)
  /-- `WRREG reg, data` (rule R102). -/
  | wrreg (reg : Byte) (data : Byte)
  /-- `VERIFY` (rule R114). -/
  | verify
  /-- `SETRATE mode` (rule R118). -/
  | setrate (mode : BitVec 4)
  /-- `PWRON` = `SETRATE 7` (rule R119). -/
  | pwron
  /-- `PWROFF` = `SETRATE 0` (rule R119). -/
  | pwroff
  /-- `SETFS fs` (rule R120). -/
  | setfs (fs : FsCode)
  /-- `SETSPI mode` (rule R124). -/
  | setspi (mode : SpiMode)
  /-- `INIT fs` (rule R128). -/
  | init (fs : FsCode)
  /-- `SAMPLE` (rule R142). -/
  | sample
  deriving DecidableEq, Repr

end Sys2Proof
end

