-- ==== Sys2Proof/WellFormed.lean ====
section
/-! DEFINITION. Which commands have legal operands: the `BAD_COMMAND` value checks of rule R65, as one Bool.
`checkOperands` of Sys2Proof/Decode.lean names the check that fails; Sys2Proof/Laws/Decode.lean shows that the two agree. -/

namespace Sys2Proof

/-- A register address the variant can express (rules R7, R40, R65): any byte on I2C, at most 0x3F on SPI. -/
def Bus.reaches (b : Bus) (reg : Byte) : Bool :=
  match b with
  | .i2c => true
  | .spi => decide (reg.toNat ≤ 0x3F)

/-- Rule R65's value checks whose failure is `BAD_COMMAND`. The `UNSUPPORTED` checks of `SETSPI` are admission's
(rule R174, check 3), not the encoding's. -/
def Instr.wellFormed (b : Bus) : Instr → Bool
  | .rdreg reg len => decide (1 ≤ len.toNat) && decide (len.toNat ≤ 6) && b.reaches reg
  | .wrreg reg _ => b.reaches reg
  | .verify => true
  | .setrate mode => decide (mode.toNat ≤ 9)
  | .pwron => true
  | .pwroff => true
  | .setfs _ => true
  | .setspi _ => true
  | .init _ => true
  | .sample => true

end Sys2Proof
end

