-- ==== Sys2Proof/Decode.lean ====
section
/-! DEFINITION. The command word: the decoder of rule R64 (mask and match), the value checks of rule R65, the
pseudo-commands of rule R80, the encoder of rules R60 to R63, and the host's `decodeTableWord`. -/

namespace Sys2Proof

/-- Why a word is no command (rule R66). Every reason is answered with `BAD_COMMAND`; the names are the model's
(log entry 16). -/
inductive Reject where
  /-- `OP` is 0x0 or 0x9 to 0xF. -/
  | noSuchOp
  /-- A known `OP` with a nonzero bit in a field that the command does not use. -/
  | strayBits
  /-- `RDREG` with `LEN` = 0 or `LEN` > `MAX_BURST`. -/
  | lenOutOfRange
  /-- `REG` > 0x3F on SPI. -/
  | regOutOfRange
  /-- `SETRATE` with `ARG` > `RATE_MAX`. -/
  | rateOutOfRange
  deriving DecidableEq, Repr

/-- `OP` = `CW[31:28]` (rule R65). -/
def fieldOp (w : CmdWord) : BitVec 4 := w.extractLsb' 28 4
/-- `LEN` = `CW[27:24]`. -/
def fieldLen (w : CmdWord) : BitVec 4 := w.extractLsb' 24 4
/-- `REG` = `CW[23:16]`. -/
def fieldReg (w : CmdWord) : Byte := w.extractLsb' 16 8
/-- `DATA` = `CW[15:8]`. -/
def fieldData (w : CmdWord) : Byte := w.extractLsb' 8 8
/-- `ARG` = `CW[3:0]`. -/
def fieldArg (w : CmdWord) : BitVec 4 := w.extractLsb' 0 4
/-- `ARG[1:0]`, the full-scale code of `SETFS` and `INIT`. -/
def fieldFs (w : CmdWord) : FsCode := w.extractLsb' 0 2
/-- `ARG[0]`, the mode of `SETSPI`. -/
def fieldSpiMode (w : CmdWord) : SpiMode := if w.getLsbD 0 then .threeWire else .fourWire

/-- One row of the table of rule R64: a word `w` selects it when `w & mask = pattern`. -/
structure Row where
  pattern : CmdWord
  mask : CmdWord
  operands : CmdWord → Instr

/-- The rows of rule R64. `PWRON` and `PWROFF` "decode as `SETRATE`; a decoder needs only the `SETRATE` row". -/
def rows : List Row :=
  [ ⟨0x10000000, 0xF000FFFF, fun w => .rdreg (fieldReg w) (fieldLen w)⟩,
    ⟨0x20000000, 0xFF0000FF, fun w => .wrreg (fieldReg w) (fieldData w)⟩,
    ⟨0x30000000, 0xFFFFFFFF, fun _ => .verify⟩,
    ⟨0x40000000, 0xFFFFFFF0, fun w => .setrate (fieldArg w)⟩,
    ⟨0x50000000, 0xFFFFFFFC, fun w => .setfs (fieldFs w)⟩,
    ⟨0x60000000, 0xFFFFFFFE, fun w => .setspi (fieldSpiMode w)⟩,
    ⟨0x70000000, 0xFFFFFFFC, fun w => .init (fieldFs w)⟩,
    ⟨0x80000000, 0xFFFFFFFF, fun _ => .sample⟩ ]

/-- Rule R64: `(w & mask) = match`. -/
def Row.selects (r : Row) (w : CmdWord) : Bool := w &&& r.mask == r.pattern

/-- Check 1 of admission (rule R174): the row that the word selects, or why there is none (rule R66). -/
def decodeWord (w : CmdWord) : Except Reject Instr :=
  match rows.find? (·.selects w) with
  | some r => .ok (r.operands w)
  | none => .error (if 1 ≤ (fieldOp w).toNat ∧ (fieldOp w).toNat ≤ 8 then .strayBits else .noSuchOp)

/-- Check 2 of admission (rule R174): the `BAD_COMMAND` value checks of rule R65, in the order of its table. -/
def checkOperands (b : Bus) : Instr → Option Reject
  | .rdreg reg len =>
    if len.toNat < 1 ∨ Machine.maxBurst < len.toNat then some .lenOutOfRange
    else if b = .spi ∧ 0x3F < reg.toNat then some .regOutOfRange
    else none
  | .wrreg reg _ => if b = .spi ∧ 0x3F < reg.toNat then some .regOutOfRange else none
  | .setrate mode => if Machine.rateMax.toNat < mode.toNat then some .rateOutOfRange else none
  | .verify | .pwron | .pwroff | .setfs _ | .setspi _ | .init _ | .sample => none

/-- Rule R80: `PWRON` expands to `SETRATE 7` and `PWROFF` to `SETRATE 0`; every other command stands for itself. -/
def Instr.expand : Instr → Instr
  | .pwron => .setrate 7
  | .pwroff => .setrate 0
  | .rdreg reg len => .rdreg reg len
  | .wrreg reg data => .wrreg reg data
  | .verify => .verify
  | .setrate mode => .setrate mode
  | .setfs fs => .setfs fs
  | .setspi mode => .setspi mode
  | .init fs => .init fs
  | .sample => .sample

/-- A command word from its fields, each at its place (rule R60): `OP` 31:28, `LEN` 27:24, `REG` 23:16, `DATA` 15:8,
`ARG` 3:0, and the field `Z` zero. -/
def packWord (op len : BitVec 4) (reg data : Byte) (arg : BitVec 4) : CmdWord :=
  (op.setWidth 32 <<< 28) ||| (len.setWidth 32 <<< 24) ||| (reg.setWidth 32 <<< 16) ||| (data.setWidth 32 <<< 8) |||
    arg.setWidth 32

/-- The `ARG` of a full-scale code (rule R62): `ARG[3:2]` zero. -/
def argOfFs (fs : FsCode) : BitVec 4 := fs.setWidth 4

/-- The `ARG` of `SETSPI` (rule R62): `ARG[3:1]` zero. -/
def argOfSpiMode : SpiMode → BitVec 4
  | .fourWire => 0
  | .threeWire => 1

/-- The word of a command, from the formats of rules R61 to R63 and the operation codes of rule R64. -/
def encode : Instr → CmdWord
  | .rdreg reg len => packWord 1 len reg 0 0
  | .wrreg reg data => packWord 2 0 reg data 0
  | .verify => packWord 3 0 0 0 0
  | .setrate mode => packWord 4 0 0 0 mode
  | .pwron => packWord 4 0 0 0 7
  | .pwroff => packWord 4 0 0 0 0
  | .setfs fs => packWord 5 0 0 0 (argOfFs fs)
  | .setspi mode => packWord 6 0 0 0 (argOfSpiMode mode)
  | .init fs => packWord 7 0 0 0 (argOfFs fs)
  | .sample => packWord 8 0 0 0 0

/-- A table word as the host numbers it: every command is one word of 32 bits (rule R67), so the bits above `nbits`
are zero and more than 32 bits are no command. -/
def tableWord (nbits w : Nat) : CmdWord := BitVec.ofNat 32 (w % 2 ^ nbits)

/-- The command that the decoder reads from a word numbered as spec/opcode_table.json numbers it. -/
def decodeTableWord (nbits w : Nat) : Option Instr :=
  if nbits ≤ 32 then (decodeWord (tableWord nbits w)).toOption else none

end Sys2Proof
end

