-- ==== Sys2Proof/Machine/State.lean ====
section
/-! DEFINITION. The state of the block as plain data: `ST` (rule R20), the host port (rules R10, R70), the block's activity
(rules R28, R98), the record `TRACE` (rule R11), the parameter `CFG` (rule R24), and the environment's inputs. The working
registers (rules R26, R27) hold no value between commands and are local values of the meanings. -/

namespace Sys2Proof.Machine

/-- A level of the chip-select line (rules R9, R23). -/
inductive Level where
  /-- Asserted, selected. -/
  | low
  /-- Deasserted. -/
  | high
  deriving DecidableEq, Repr

/-- The response statuses (rule R71). Values 6 and 7 are never produced (U21), so there are six constructors. -/
inductive Status where
  | ok
  | deviceMismatch
  | transport
  | badCommand
  | notReady
  | unsupported
  deriving DecidableEq, Repr

/-- One value for each axis (rules R26, R70). -/
structure Axes (α : Type) where
  x : α
  y : α
  z : α
  deriving DecidableEq, Repr

/-- The response record `RESP` (rule R70), an abstract record without a bit packing. -/
structure Resp where
  status : Status
  /-- Number of valid bytes in `data`. -/
  len : BitVec 3
  data : Bytes6
  fs : FsCode
  raw : Axes Raw
  acc : Axes Acc
  deriving DecidableEq, Repr

/-- A transport call with its arguments (rule R9). -/
inductive Call where
  | i2cWrite (addr : BitVec 7) (bytes : List Byte)
  | i2cWriteThenRead (addr : BitVec 7) (bytes : List Byte) (n : Nat)
  | spiWrite (bytes : List Byte)
  | spiWriteThenRead (bytes : List Byte) (n : Nat)
  deriving DecidableEq, Repr

/-- The result of a transport call that returned (rules R9, R98); the reply of a write is empty. -/
inductive CallResult where
  | ok (reply : List Byte)
  | fail
  deriving DecidableEq, Repr

/-- One event of `TRACE` (rules R11, R93, R94, R96). -/
inductive Event where
  /-- `CS.set_level(low)`. -/
  | csLow
  /-- `CS.set_level(high)`. -/
  | csHigh
  | transport (call : Call) (result : CallResult)
  deriving DecidableEq, Repr

/-- What the block is doing between steps of the model (rules R28, R38, R98). -/
inductive Activity where
  /-- No command executing. -/
  | idle
  /-- The transport call `call` has not returned and never will (rules R98, R217; log entry 6). -/
  | waiting (call : Call)
  deriving DecidableEq, Repr

/-- Why the machine stops. The spec gives the block no such case: every error is a response status (rule R170), and a
command that never ends is a state (rule R217). So no step faults (log entry 20). -/
inductive Fault where
  deriving DecidableEq, Repr

/-- Why the model gives no meaning. -/
inductive Refusal where
  /-- Raised by an arm of `exec` for a command that has no meaning yet; safe. No arm raises it now. -/
  | notModelled (mnemonic : String)
  deriving DecidableEq, Repr

/-- The state of one block instance with its environment. -/
structure State where
  /-- `CFG` (rules R6, R24): fixed for the life of the instance; no step changes it (log entry 1). -/
  cfg : Cfg
  /-- `ST.FS`, the stored full-scale code (rule R21). -/
  fs : FsCode
  /-- `ST.INIT_OK` (rule R22). -/
  initOk : Bool
  /-- `ST.CS_LEVEL` (rule R23); no step reads or writes it when `BUS` is `I2C` (log entry 11). -/
  csLevel : Level
  /-- Idle, or in a transport call that never returns (rules R28, R98). -/
  activity : Activity
  /-- The response record last presented (rules R10, R70); none after reset and while a command has not ended
  (log entry 8). -/
  resp : Option Resp
  /-- `TRACE`, oldest event first (rule R11): the model's record, not hardware state (rule R24). -/
  trace : List Event
  /-- THE HOST: the command words it will present, next first (rules R3, R10; log entry 9). Not a queue of the block. -/
  inbox : List CmdWord
  /-- THE ORACLE: the answers to the transport calls to come, next first (rules R3, R9; log entry 5). -/
  oracle : List Answer
  /-- THE MODEL'S OWN: how many transport calls were made, the argument of the free value `Config.freeAnswer`
  (log entry 5). -/
  calls : Nat
  deriving DecidableEq, Repr

/-- The block right after reset, built with `c` (rules R38, R200), no command presented and no answer listed. -/
def State.resetWith (c : Cfg) : State where
  cfg := c
  fs := 0
  initOk := false
  csLevel := .high
  activity := .idle
  resp := none
  trace := []
  inbox := []
  oracle := []
  calls := 0

/-- The machine right after reset. DESIGN CHOICE (log entry 2): of the instances rule R6 allows, the one with
`BUS = SPI` and the default parameters; statements hold for every `Cfg`. -/
def State.reset : State := State.resetWith (defaultCfg .spi .lo)

end Sys2Proof.Machine
end

