-- ==== Sys2Proof/Machine/Operands.lean ====
section
/-! DEFINITION. The pure functions of the block: `insert` (rule R112), the chip-select-bus frame byte (rule R73), `assemble`
(rule R146) and `scale` (rule R152). The block has no status flags (rule R29), so there is no file of flag computations. -/

namespace Sys2Proof.Machine

/-- The six bytes in order, first in time first (rules R12, R43). -/
def bytesList (b : Bytes6) : List Byte := [b.b0, b.b1, b.b2, b.b3, b.b4, b.b5]

/-- The first `n` bytes, the others zero: the field `data` of the `RDREG` response (rules R70, R100). -/
def keepBytes (n : Nat) (b : Bytes6) : Bytes6 where
  b0 := if 0 < n then b.b0 else 0
  b1 := if 1 < n then b.b1 else 0
  b2 := if 2 < n then b.b2 else 0
  b3 := if 3 < n then b.b3 else 0
  b4 := if 4 < n then b.b4 else 0
  b5 := if 5 < n then b.b5 else 0

/-- `insert(cur, mask, pos, val)` on 8-bit values (rule R112). -/
def insertField (cur mask : Byte) (pos : Nat) (val : Byte) : Byte :=
  (cur &&& ~~~mask) ||| ((val <<< pos) &&& mask)

/-- One bit as a byte. -/
def bitByte (b : Bool) : Byte := if b then 1 else 0

/-- `SPI_CMD(rd, ms, addr) = (rd << 7) | (ms << 6) | addr[5:0]` (rule R73). -/
def spiCmd (rd ms : Bool) (addr : Byte) : Byte :=
  (bitByte rd <<< 7) ||| (bitByte ms <<< 6) ||| (addr &&& 0x3F#8)

/-- The numeric value of a status (rule R71). -/
def statusCode : Status → BitVec 3
  | .ok => 0
  | .deviceMismatch => 1
  | .transport => 2
  | .badCommand => 3
  | .notReady => 4
  | .unsupported => 5

/-- `assemble(lo, hi)` (rule R146): `(hi << 8) | lo`, read as signed by `BitVec.toInt` (`to_s16`, rule R13). -/
def assemble (lo hi : Byte) : Raw := (hi.setWidth 16 <<< 8) ||| lo.setWidth 16

/-- Step 2 of `SAMPLE` (rules R42, R142, R146): bytes in the order x low, x high, y low, y high, z low, z high. -/
def assembleAxes (b : Bytes6) : Axes Raw where
  x := assemble b.b0 b.b1
  y := assemble b.b2 b.b3
  z := assemble b.b4 b.b5

/-- The limit `L = 2^(f + 1)` in g (rules R8, R150). -/
def limit (f : FsCode) : Int := 2 ^ (f.toNat + 1)

/-- The closed form of `scale(v, f)` on integers (rule R152): `floor((2N + 65535) / 131070)` with
`N = L * (2v + 1) * 2^FRAC`. Division by a positive `Int` rounds toward minus infinity. -/
def scaleInt (frac : Nat) (v : Int) (f : FsCode) : Int :=
  (2 * (limit f * (2 * v + 1) * 2 ^ frac) + 65535) / 131070

/-- `scale(v, f)` as the `ACC_W`-bit register holds it (rules R14, R152). -/
def scale (frac : Nat) (v : Raw) (f : FsCode) : Acc := BitVec.ofInt 32 (scaleInt frac v.toInt f)

/-- Step 4 of `SAMPLE` (rule R142): the axes are independent. -/
def scaleAxes (frac : Nat) (f : FsCode) (r : Axes Raw) : Axes Acc where
  x := scale frac r.x f
  y := scale frac r.y f
  z := scale frac r.z f

end Sys2Proof.Machine
end

