-- ==== Sys2Proof/Machine/Ops.lean ====
section
/-! DEFINITION. The operations every command is built from: the host port, the transport call, the chip-select bracket, the
framed accesses `MemRead` and `MemWrite` (rules R90 to R99), `SetField` (rule R116), the response and `raise` (rules R13,
R176), and admission (rule R174). Raising a status is the block's only exception (60_exceptions.md); nothing is saved and
there is no return from it (rules R176, R180). -/

namespace Sys2Proof.Machine

/-- The response with a status and a zero payload (rules R70, R72, R172). -/
def bareResp (st : Status) : Resp where
  status := st
  len := 0
  data := ⟨0, 0, 0, 0, 0, 0⟩
  fs := 0
  raw := ⟨0, 0, 0⟩
  acc := ⟨0, 0, 0⟩

/-- `emit(e)` (rule R13). -/
def State.emit (s : State) (e : Event) : State := { s with trace := s.trace ++ [e] }

/-- The event of `CS.set_level(l)` (rule R93). -/
def levelEvent : Level → Event
  | .low => .csLow
  | .high => .csHigh

/-- `CS.set_level(l)`, with its event (rules R9, R93): it cannot fail (decision D17, log entry 12). -/
def State.drive (s : State) (l : Level) : State :=
  { s with
    csLevel := l
    trace := s.trace ++ [levelEvent l] }

/-- One answer of the environment is used up. -/
def State.drawn (s : State) : State := { s with oracle := s.oracle.drop 1, calls := s.calls + 1 }

/-- The answer to the transport call `k` calls from now: the listed one, or the free value (log entry 5). -/
def State.answerAt (s : State) (k : Nat) : Answer :=
  match s.oracle[k]? with
  | some a => a
  | none => Config.freeAnswer (s.calls + k)

/-- The transport call that never returns (rule R98). -/
def State.block (s : State) (c : Call) : State := { s with activity := .waiting c }

/-- `ST.FS <- fs` (rule R120). -/
def State.setFs (s : State) (fs : FsCode) : State := { s with fs := fs }

/-- `ST.INIT_OK <- b` (rule R128). -/
def State.setInitOk (s : State) (b : Bool) : State := { s with initOk := b }

/-- The block accepts a command: the earlier response is withdrawn (log entry 8). -/
def State.accept (s : State) : State := { s with resp := none }

/-- `respond`: present the response record and become idle (rule R13). -/
def State.respond (s : State) (r : Resp) : State := { s with resp := some r, activity := .idle }

/-- The word the host presents is taken from the port (rules R10, R55). -/
def State.take (s : State) : State := { s with inbox := s.inbox.drop 1 }

/-- The word the block takes from the host port now: none while it is not idle (rule R10: no second command is
accepted while one executes) or while the host presents none. -/
def State.presented (s : State) : Option CmdWord :=
  match s.activity with
  | .idle => s.inbox.head?
  | .waiting _ => none

/-- A part of a command that has run: it completed, it raised a status (rule R176), or a transport call never returned
(rule R98). -/
inductive Run (α : Type) where
  | ok (a : α) (s : State)
  | raised (st : Status) (s : State)
  | hung (s : State)

/-- The next step of a step list runs only if this one completed (rules R28, R52, R176). -/
def Run.andThen {α β : Type} (r : Run α) (f : α → State → Run β) : Run β :=
  match r with
  | .ok a s => f a s
  | .raised st s => .raised st s
  | .hung s => .hung s

/-- The release of the chip-select line "on every exit path" (rule R97): on both outcomes of a call that returned. -/
def Run.deselect {α : Type} (r : Run α) : Run α :=
  match r with
  | .ok a s => .ok a (s.drive .high)
  | .raised st s => .raised st (s.drive .high)
  | .hung s => .hung s

/-- The end of a command: its response (rule R70), the response of `raise` (rule R176), or none (rules R98, R217). -/
def Run.finish (r : Run Resp) : State :=
  match r with
  | .ok resp s => s.respond resp
  | .raised st s => s.respond (bareResp st)
  | .hung s => s

/-- One transport call that asks for `n` reply bytes (rules R9, R98): its event carries its result. A `Fail` can only
become the status `TRANSPORT` (rule R172). -/
def transportCall (c : Call) (n : Nat) (s : State) : Run Bytes6 :=
  match s.answerAt 0 with
  | .ok b => .ok b (s.drawn.emit (.transport c (.ok ((bytesList b).take n))))
  | .fail => .raised .transport (s.drawn.emit (.transport c .fail))
  | .never => .hung (s.drawn.block c)

/-- The chip-select bracket round one transport call (rule R97). -/
def bracket {α : Type} (body : State → Run α) (s : State) : Run α :=
  (body (s.drive .low)).deselect

/-- `MemRead_SPI(r, n)` (rule R93). -/
def memReadSpi (r : Byte) (n : Nat) (s : State) : Run Bytes6 :=
  bracket (transportCall (.spiWriteThenRead [spiCmd true (decide (1 < n)) r] n) n) s

/-- `MemRead_I2C(r, n)` (rule R94). -/
def memReadI2c (r : Byte) (n : Nat) (s : State) : Run Bytes6 :=
  transportCall (.i2cWriteThenRead s.cfg.devAddr [r] n) n s

/-- `MemRead(r, n)` (rules R91, R92): the bytes are `RXBUF`, of which the first `n` are reply bytes; no command reads
the others. -/
def memRead (r : Byte) (n : Nat) (s : State) : Run Bytes6 :=
  match s.cfg.bus with
  | .spi => memReadSpi r n s
  | .i2c => memReadI2c r n s

/-- `MemWrite_SPI(r, b)` (rule R96). -/
def memWriteSpi (r b : Byte) (s : State) : Run Bytes6 :=
  bracket (transportCall (.spiWrite [spiCmd false false r, b]) 0) s

/-- `MemWrite_I2C(r, b)` (rule R96). -/
def memWriteI2c (r b : Byte) (s : State) : Run Bytes6 :=
  transportCall (.i2cWrite s.cfg.devAddr [r, b]) 0 s

/-- `MemWrite(r, 1, b)` (rules R91, R95): no reply byte is kept. -/
def memWrite (r b : Byte) (s : State) : Run Unit :=
  (match s.cfg.bus with
   | .spi => memWriteSpi r b s
   | .i2c => memWriteI2c r b s).andThen fun _ t => .ok () t

/-- `SetField(reg, mask, pos, val)` (rule R116): `CUR` is `RXBUF[0]`, `NEW` is written whether or not it differs. -/
def setField (reg mask : Byte) (pos : Nat) (val : Byte) (s : State) : Run Unit :=
  (memRead reg 1 s).andThen fun rx t => memWrite reg (insertField rx.b0 mask pos val) t

/-- Rule R174, check 3: `SETSPI` on the addressed bus, or asking for three-wire (rule R124). -/
def unsupported (b : Bus) : Instr → Bool
  | .setspi mode => b == .i2c || mode == .threeWire
  | .rdreg _ _ | .wrreg _ _ | .verify | .setrate _ | .pwron | .pwroff | .setfs _ | .init _ | .sample => false

/-- Rule R174, check 4: every command but `INIT` needs `INIT_OK` = 1. -/
def needsReady : Instr → Bool
  | .init _ => false
  | .rdreg _ _ | .wrreg _ _ | .verify | .setrate _ | .pwron | .pwroff | .setfs _ | .setspi _ | .sample => true

/-- Checks 2 to 4 of rule R174, in its order: the status of the first that fails. Check 1 is `decodeWord`. -/
def admission (i : Instr) (s : State) : Option Status :=
  if (checkOperands s.cfg.bus i).isSome then some .badCommand
  else if unsupported s.cfg.bus i then some .unsupported
  else if needsReady i && !s.initOk then some .notReady
  else none

/-- A command word that is refused before any step: `raise` with no bus activity (rules R66, R174, R176). -/
def State.refuse (s : State) (st : Status) : State := s.accept.respond (bareResp st)

/-- A command from its admission to its end (rules R174, R176): `body` is its step list. -/
def runCommand (i : Instr) (s : State) (body : State → Run Resp) : Host.Outcome State Fault Refusal :=
  .next (match admission i s with
    | some st => s.refuse st
    | none => (body s.accept).finish)

/-- `respond(OK)` with a zero payload (rule R72), as the last step of a step list. -/
def respondOk (r : Run Unit) : Run Resp := r.andThen fun _ t => .ok (bareResp .ok) t

end Sys2Proof.Machine
end

