-- ==== Sys2Proof/Machine/Controller.lean ====
section
/-! DEFINITION. D0's Device Controller commands (41_controller.md): `VERIFY`, `SETRATE`, `PWRON`, `PWROFF`, `SETFS`, `SETSPI` and
`INIT`. -/

namespace Sys2Proof.Machine

/-- `Verify()` (rule R114): a failed read wins over the compare (rule R175). -/
def verifyStep (s : State) : Run Unit :=
  (memRead regId 1 s).andThen fun rx t =>
    if rx.b0 = idExpect then .ok () t else .raised .deviceMismatch t

/-- The data-rate field of the rate/power control register (rule R118); the mode is not stored (rule R25). -/
def setRateStep (mode : BitVec 4) (s : State) : Run Unit :=
  setField s.cfg.regCtrlRate rateMask ratePos (mode.setWidth 8) s

/-- `PowerOn()` (rule R119). -/
def powerOnStep (s : State) : Run Unit := setRateStep rateOn s

/-- `SetFs(fs)` (rule R120): `ST.FS` is written only after the write returned `Ok`. -/
def setFsStep (fs : FsCode) (s : State) : Run Unit :=
  (setField s.cfg.regCtrlScale fsMask fsPos (fs.setWidth 8) s).andThen fun _ t => .ok () (t.setFs fs)

/-- `SetSpi4()` (rule R124). -/
def setSpi4Step (s : State) : Run Unit :=
  setField s.cfg.regCtrlSim (simMask s.cfg) s.cfg.simBit.val (s.cfg.simFourWire.setWidth 8) s

/-- Step 0 of `INIT` (rule R128): only when `BUS = SPI`. -/
def forceFourWireStep (s : State) : Run Unit :=
  match s.cfg.bus with
  | .spi => setSpi4Step s
  | .i2c => .ok () s

/-- The step list of `INIT fs` (rule R128). -/
def initSteps (fs : FsCode) (s : State) : Run Unit :=
  (forceFourWireStep (s.setInitOk false)).andThen fun _ t =>
  (verifyStep t).andThen fun _ u =>
  (powerOnStep u).andThen fun _ v =>
  (setFsStep fs v).andThen fun _ w => .ok () (w.setInitOk true)

/-- `VERIFY` (rule R114). -/
def execVerify (s : State) : Host.Outcome State Fault Refusal :=
  runCommand .verify s fun t => respondOk (verifyStep t)

/-- `SETRATE mode` (rule R118). -/
def execSetrate (mode : BitVec 4) (s : State) : Host.Outcome State Fault Refusal :=
  runCommand (.setrate mode) s fun t => respondOk (setRateStep mode t)

/-- `PWRON` (rule R119): `SETRATE 7`. -/
def execPwron (s : State) : Host.Outcome State Fault Refusal :=
  runCommand .pwron s fun t => respondOk (setRateStep rateOn t)

/-- `PWROFF` (rule R119): `SETRATE 0`. -/
def execPwroff (s : State) : Host.Outcome State Fault Refusal :=
  runCommand .pwroff s fun t => respondOk (setRateStep rateOff t)

/-- `SETFS fs` (rule R120). -/
def execSetfs (fs : FsCode) (s : State) : Host.Outcome State Fault Refusal :=
  runCommand (.setfs fs) s fun t => respondOk (setFsStep fs t)

/-- `SETSPI mode` (rule R124): three-wire and the addressed bus are refused by admission, so the step list is the
one of `SETSPI(0)`. -/
def execSetspi (mode : SpiMode) (s : State) : Host.Outcome State Fault Refusal :=
  runCommand (.setspi mode) s fun t => respondOk (setSpi4Step t)

/-- `INIT fs` (rule R128). -/
def execInit (fs : FsCode) (s : State) : Host.Outcome State Fault Refusal :=
  runCommand (.init fs) s fun t => respondOk (initSteps fs t)

end Sys2Proof.Machine
end

