-- ==== Sys2Proof/Machine/Framing.lean ====
section
/-! DEFINITION. D0's Transport Framing commands (40_framing.md): `RDREG` and `WRREG`. -/

namespace Sys2Proof.Machine

/-- The `OK` response of `RDREG` (rules R70, R72, R100). -/
def readResp (len : BitVec 4) (rx : Bytes6) : Resp :=
  { bareResp .ok with len := len.setWidth 3, data := keepBytes len.toNat rx }

/-- `RDREG reg, len` (rule R100). -/
def execRdreg (reg : Byte) (len : BitVec 4) (s : State) : Host.Outcome State Fault Refusal :=
  runCommand (.rdreg reg len) s fun t =>
    (memRead reg len.toNat t).andThen fun rx u => .ok (readResp len rx) u

/-- `WRREG reg, data` (rule R102): the whole byte is written; `ST` is not changed whatever the register. -/
def execWrreg (reg data : Byte) (s : State) : Host.Outcome State Fault Refusal :=
  runCommand (.wrreg reg data) s fun t => respondOk (memWrite reg data t)

end Sys2Proof.Machine
end

