-- ==== Sys2Proof/Machine/Sample.lean ====
section
/-! DEFINITION. D0's Sample Decoder command (42_sample.md): `SAMPLE`. -/

namespace Sys2Proof.Machine

/-- The `OK` response of `SAMPLE` (rules R70, R72, R142). -/
def sampleResp (frac : Nat) (f : FsCode) (rx : Bytes6) : Resp :=
  { bareResp .ok with fs := f, raw := assembleAxes rx, acc := scaleAxes frac f (assembleAxes rx) }

/-- `SAMPLE` (rule R142): the range is the stored `ST.FS` (rule R150), read after the burst. -/
def execSample (s : State) : Host.Outcome State Fault Refusal :=
  runCommand .sample s fun t =>
    (memRead regOutXL burstLen t).andThen fun rx u => .ok (sampleResp u.cfg.frac.val u.fs rx) u

end Sys2Proof.Machine
end

