-- ==== Sys2Proof/Machine/Dispatch.lean ====
section
/-! DEFINITION. The dispatch of a command to its meaning, one arm per constructor of `Instr`. -/

namespace Sys2Proof.Machine

def exec (i : Instr) (s : State) : Host.Outcome State Fault Refusal :=
  match i with
  | .rdreg reg len => Sys2Proof.Machine.execRdreg reg len s
  | .wrreg reg data => Sys2Proof.Machine.execWrreg reg data s
  | .verify => Sys2Proof.Machine.execVerify s
  | .setrate mode => Sys2Proof.Machine.execSetrate mode s
  | .pwron => Sys2Proof.Machine.execPwron s
  | .pwroff => Sys2Proof.Machine.execPwroff s
  | .setfs fs => Sys2Proof.Machine.execSetfs fs s
  | .setspi mode => Sys2Proof.Machine.execSetspi mode s
  | .init fs => Sys2Proof.Machine.execInit fs s
  | .sample => Sys2Proof.Machine.execSample s

end Sys2Proof.Machine
end

