-- ==== Sys2Proof/Machine/Step.lean ====
section
/-! DEFINITION. One step: the block takes the word the host presents and runs it to completion (rules R3, R10), or nothing
happens because no word is presented or a transport call never returned. -/

namespace Sys2Proof.Machine

/-- One step of the machine (rules R3, R10, R28, R66, R98, R174). -/
def step (s : State) : Host.Outcome State Fault Refusal :=
  match s.presented with
  | none => .next s
  | some w =>
    match decodeWord w with
    | .error _ => .next (s.take.refuse .badCommand)
    | .ok i => exec i s.take

/-- `s` with an idle block and the given word as the one the host presents next (log entry 9). -/
def State.withFetchWord (s : State) (nbits w : Nat) : State :=
  { s with activity := .idle, inbox := tableWord nbits w :: s.inbox }

end Sys2Proof.Machine
end

