-- ==== Sys2Proof/Safety.lean ====
section
/-! DEFINITION. The words in which claims are stated: the frames of rule R90's table, the exact rational value of rule R152,
what a run of transport calls leaves, and the invariant of a well-behaved block (rules R23, R97, R99). -/

namespace Sys2Proof.Machine

/-- The transport call of a framed read (table of rule R90). -/
def readCall (c : Cfg) (r : Byte) (n : Nat) : Call :=
  match c.bus with
  | .i2c => .i2cWriteThenRead c.devAddr [r] n
  | .spi => .spiWriteThenRead [spiCmd true (decide (1 < n)) r] n

/-- The transport call of a framed write (table of rule R90). -/
def writeCall (c : Cfg) (r b : Byte) : Call :=
  match c.bus with
  | .i2c => .i2cWrite c.devAddr [r, b]
  | .spi => .spiWrite [spiCmd false false r, b]

/-- The events of a framed access that returned: one transport call, on SPI inside its bracket (rules R93 to R97). -/
def frameEvents (c : Cfg) (call : Call) (res : CallResult) : List Event :=
  match c.bus with
  | .i2c => [.transport call res]
  | .spi => [.csLow, .transport call res, .csHigh]

/-- The events of a framed read that returned `Ok` with the first `n` of six bytes. -/
def readOk (c : Cfg) (r : Byte) (n : Nat) (b : Bytes6) : List Event :=
  frameEvents c (readCall c r n) (.ok ((bytesList b).take n))

/-- The events of a framed read that returned `Fail`. -/
def readFail (c : Cfg) (r : Byte) (n : Nat) : List Event := frameEvents c (readCall c r n) .fail

/-- The events of a framed write that returned `Ok`. -/
def writeOk (c : Cfg) (r b : Byte) : List Event := frameEvents c (writeCall c r b) (.ok [])

/-- The events of a framed write that returned `Fail`. -/
def writeFail (c : Cfg) (r b : Byte) : List Event := frameEvents c (writeCall c r b) .fail

/-- The level of the chip-select line after a framed access: high on SPI (rule R99); on I2C it does not exist and the
field keeps its value. -/
def State.restLevel (s : State) : Level :=
  match s.cfg.bus with
  | .spi => .high
  | .i2c => s.csLevel

/-- The level of the chip-select line during a transport call: low on SPI (rule R97). -/
def State.callLevel (s : State) : Level :=
  match s.cfg.bus with
  | .spi => .low
  | .i2c => s.csLevel

/-- `s` after `k` transport calls that returned, with their events, the block idle and the response `r` presented. Every
other field is the one of `s`. -/
def State.ended (s : State) (k : Nat) (evs : List Event) (r : Resp) : State :=
  { s with
    csLevel := s.restLevel
    activity := .idle
    resp := some r
    trace := s.trace ++ evs
    oracle := s.oracle.drop k
    calls := s.calls + k }

/-- The events before a call that is not over: on SPI its `CsLow` (rule R97). -/
def openEvents (c : Cfg) : List Event :=
  match c.bus with
  | .i2c => []
  | .spi => [.csLow]

/-- `s` in the transport call `c` that never returns, after `k` calls that returned with their events: no response, and on SPI
the line low behind its `CsLow` (rules R97, R98, R217; log entries 6, 8). Every other field is the one of `s`. -/
def State.hungIn (s : State) (k : Nat) (evs : List Event) (c : Call) : State :=
  { s with
    csLevel := s.callLevel
    activity := .waiting c
    resp := none
    trace := s.trace ++ evs ++ openEvents s.cfg
    oracle := s.oracle.drop (k + 1)
    calls := s.calls + (k + 1) }

/-- `s` after a command that was refused without bus activity: only the response port and the activity. -/
def State.refusedWith (s : State) (st : Status) : State :=
  { s with activity := .idle, resp := some (bareResp st) }

/-- The exact value `ideal(v, f)` in g, first form (rule R152). -/
def ideal (v : Int) (f : FsCode) : ℚ := (v + 32768) * (2 * limit f) / 65535 - limit f

/-- The transport calls of a piece of `TRACE`, each with whether it returned `Ok`. -/
def callsOf : List Event → List Bool
  | [] => []
  | .transport _ (.ok _) :: es => true :: callsOf es
  | .transport _ .fail :: es => false :: callsOf es
  | .csLow :: es => callsOf es
  | .csHigh :: es => callsOf es

/-- The number of transport calls of a successful command (rule R220); `SETSPI` exists only on SPI. -/
def callCount (b : Bus) : Instr → Nat
  | .rdreg _ _ => 1
  | .wrreg _ _ => 1
  | .verify => 1
  | .setrate _ => 2
  | .pwron => 2
  | .pwroff => 2
  | .setfs _ => 2
  | .setspi _ => 2
  | .init _ => match b with | .i2c => 5 | .spi => 7
  | .sample => 1

/-- The two calls of a read-modify-write whose read gives `b` (rules R112, R116). -/
def fieldCalls (c : Cfg) (reg mask : Byte) (pos : Nat) (val b : Byte) : List Call :=
  [readCall c reg 1, writeCall c reg (insertField b mask pos val)]

/-- The calls of the protocol bit at its four-wire value (rule R124). -/
def fourWireCalls (c : Cfg) (b : Byte) : List Call :=
  fieldCalls c c.regCtrlSim (simMask c) c.simBit.val (c.simFourWire.setWidth 8) b

/-- The transport calls of a command that is admitted and whose every access succeeds, in order (the table of rule R41; rules
R100, R102, R114, R116, R118 to R120, R124, R128, R142), where `rx k` is the reply to call number `k` of the command. -/
def callsIn (c : Cfg) (rx : Nat → Bytes6) : Instr → List Call
  | .rdreg reg len => [readCall c reg len.toNat]
  | .wrreg reg data => [writeCall c reg data]
  | .verify => [readCall c regId 1]
  | .setrate mode => fieldCalls c c.regCtrlRate 0xF0 4 (mode.setWidth 8) (rx 0).b0
  | .pwron => fieldCalls c c.regCtrlRate 0xF0 4 7 (rx 0).b0
  | .pwroff => fieldCalls c c.regCtrlRate 0xF0 4 0 (rx 0).b0
  | .setfs fs => fieldCalls c c.regCtrlScale 0x30 4 (fs.setWidth 8) (rx 0).b0
  | .setspi _ => fourWireCalls c (rx 0).b0
  | .init fs =>
    match c.bus with
    | .i2c => readCall c regId 1 :: fieldCalls c c.regCtrlRate 0xF0 4 7 (rx 1).b0 ++
        fieldCalls c c.regCtrlScale 0x30 4 (fs.setWidth 8) (rx 3).b0
    | .spi => fourWireCalls c (rx 0).b0 ++ readCall c regId 1 :: fieldCalls c c.regCtrlRate 0xF0 4 7 (rx 3).b0 ++
        fieldCalls c c.regCtrlScale 0x30 4 (fs.setWidth 8) (rx 5).b0
  | .sample => [readCall c regOutXL burstLen]

/-- The number, among the calls of `INIT`, of its identity read (rule R128). -/
def identityCall : Bus → Nat
  | .i2c => 0
  | .spi => 2

/-- The reply of a call that returned `Ok` with the six bytes `b` at hand: as many as it asks for (rule R9). -/
def replyTo (b : Bytes6) : Call → List Byte
  | .i2cWriteThenRead _ _ n | .spiWriteThenRead _ n => (bytesList b).take n
  | .i2cWrite _ _ | .spiWrite _ => []

/-- The events of calls that all returned `Ok`, the reply to call number `k` taken from `rx k`. -/
def okEvents (c : Cfg) (rx : Nat → Bytes6) (calls : List Call) : List Event :=
  calls.zipIdx.flatMap fun p => frameEvents c p.1 (.ok (replyTo (rx p.2) p.1))

/-- A call of the chip-select-bus transport with a frame that rules R74 and R75 allow. -/
def Call.spiFrame : Call → Bool
  | .spiWrite [c, _] => decide (c.toNat ≤ 0x3F)
  | .spiWriteThenRead [c] n => c.getLsbD 7 && (c.getLsbD 6 == decide (1 < n)) && decide (1 ≤ n ∧ n ≤ 6)
  | .spiWrite _ => false
  | .spiWriteThenRead _ _ => false
  | .i2cWrite _ _ => false
  | .i2cWriteThenRead _ _ _ => false

/-- A call of the addressed-bus transport to `a` with a frame that rules R76 and R77 allow. -/
def Call.i2cFrame (a : BitVec 7) : Call → Bool
  | .i2cWrite b [_, _] => b == a
  | .i2cWriteThenRead b [_] n => b == a && decide (1 ≤ n ∧ n ≤ 6)
  | .i2cWrite _ _ => false
  | .i2cWriteThenRead _ _ _ => false
  | .spiWrite _ => false
  | .spiWriteThenRead _ _ => false

/-- A read that returned `Ok` yields exactly the bytes it asked for (rule R9). -/
def replyFits : Call → CallResult → Bool
  | .i2cWriteThenRead _ _ n, .ok reply => reply.length == n
  | .spiWriteThenRead _ n, .ok reply => reply.length == n
  | .i2cWrite _ _, .ok reply => reply.isEmpty
  | .spiWrite _, .ok reply => reply.isEmpty
  | _, .fail => true

/-- Rule R97 on SPI: `CsLow` and `CsHigh` alternate strictly, start with `CsLow`, and every `CsLow` is followed by exactly
one SPI transport event and then `CsHigh`. -/
def bracketed : List Event → Bool
  | [] => true
  | .csLow :: .transport c res :: .csHigh :: es => c.spiFrame && replyFits c res && bracketed es
  | _ => false

/-- Rule R97 on I2C: no chip-select call, every event a framed call to `a`. -/
def addressed (a : BitVec 7) : List Event → Bool
  | [] => true
  | .transport c res :: es => c.i2cFrame a && replyFits c res && addressed a es
  | _ => false

/-- The line and the trace of a block in order (rules R23, R97, R98, R99, R211): when it is idle the line is high and every
bracket is closed, and the one way to a low line is a transport call that never returns. -/
def State.busInOrder (s : State) : Prop :=
  match s.cfg.bus, s.activity with
  | .spi, .idle => s.csLevel = .high ∧ bracketed s.trace = true
  | .spi, .waiting c =>
    s.csLevel = .low ∧ c.spiFrame = true ∧ ∃ es, s.trace = es ++ [.csLow] ∧ bracketed es = true
  | .i2c, .idle => s.csLevel = .high ∧ addressed s.cfg.devAddr s.trace = true
  | .i2c, .waiting c => s.csLevel = .high ∧ c.i2cFrame s.cfg.devAddr = true ∧ addressed s.cfg.devAddr s.trace = true

/-- The response record in order (rule R70): a failed command has a zero payload, and bytes past `len` are zero. -/
def Resp.inOrder (r : Resp) : Prop :=
  (r.status ≠ .ok → r = bareResp r.status) ∧ r.len.toNat ≤ 6 ∧ keepBytes r.len.toNat r.data = r.data

/-- The response port in order: what is presented is in order, and a command that never ended has no response
(rule R217). -/
def State.portInOrder (s : State) : Prop :=
  (∀ r, s.resp = some r → r.inOrder) ∧ (s.activity ≠ .idle → s.resp = none)

/-- The invariant every step keeps. -/
def State.Inv (s : State) : Prop := s.busInOrder ∧ s.portInOrder

/-- The same block built for the other bus: `CFG.BUS` alone differs (rule R2). -/
def State.onBus (s : State) (b : Bus) : State := { s with cfg := { s.cfg with bus := b } }

/-- What the host and the environment can tell of two blocks apart from the bus events: the response, `FS`, `INIT_OK`, whether
the block is idle, and how many answers were used (rules R2, R11, R91). -/
def State.looksLike (s t : State) : Prop :=
  s.resp = t.resp ∧ s.fs = t.fs ∧ s.initOk = t.initOk ∧ (s.activity = .idle ↔ t.activity = .idle) ∧
    s.inbox = t.inbox ∧ s.oracle = t.oracle ∧ s.calls = t.calls

/-- The commands whose step list is the same on both buses: all but `SETSPI`, which I2C does not have (rule R124), and
`INIT`, which has one step more on SPI (rule R128). -/
def sameSteps : Instr → Bool
  | .setspi _ => false
  | .init _ => false
  | .rdreg _ _ | .wrreg _ _ | .verify | .setrate _ | .pwron | .pwroff | .setfs _ | .sample => true

/-- Two replies that agree on their first `n` bytes. -/
def sameFirst (n : Nat) (b c : Bytes6) : Prop := (bytesList b).take n = (bytesList c).take n

/-- How many of the reply bytes a command's reads ask for (rules R41, R100). -/
def bytesRead : Instr → Nat
  | .rdreg _ len => len.toNat
  | .sample => 6
  | .wrreg _ _ => 0
  | .verify | .setrate _ | .pwron | .pwroff | .setfs _ | .setspi _ | .init _ => 1

end Sys2Proof.Machine
end

