-- ==== Sys2Proof/Certificates/Slice0/Obligations.lean ====
section
/-! DEFINITION. The statements for the provers, from the numbered rules of spec/. Each docstring names the rules; a clause that
rests on a decision of the spec or on an entry of the assumption log says so. -/

open Sys2Proof Sys2Proof.Machine

/-! ### The command word -/

/-- Rules R60 to R66 and the decoding table of 95_test_vectors.md: words written out from the table, one or more per
command, and words that select no row. The layout is decision D1. -/
def Obligations.WrittenWordsDecode : Prop :=
  decodeWord 0x110F0000 = .ok (.rdreg 0x0F 1) ∧ decodeWord 0x16280000 = .ok (.rdreg 0x28 6) ∧
  decodeWord 0x20207700 = .ok (.wrreg 0x20 0x77) ∧ decodeWord 0x30000000 = .ok .verify ∧
  decodeWord 0x40000009 = .ok (.setrate 9) ∧ decodeWord 0x40000007 = .ok (.setrate 7) ∧
  decodeWord 0x50000003 = .ok (.setfs 3) ∧ decodeWord 0x60000000 = .ok (.setspi .fourWire) ∧
  decodeWord 0x60000001 = .ok (.setspi .threeWire) ∧ decodeWord 0x70000002 = .ok (.init 2) ∧
  decodeWord 0x80000000 = .ok .sample ∧
  decodeWord 0x00000000 = .error .noSuchOp ∧ decodeWord 0x90000000 = .error .noSuchOp ∧
  decodeWord 0xFFFFFFFF = .error .noSuchOp ∧ decodeWord 0x110F0100 = .error .strayBits ∧
  decodeWord 0x21207700 = .error .strayBits ∧ decodeWord 0x40000017 = .error .strayBits ∧
  decodeWord 0x50000004 = .error .strayBits ∧ decodeWord 0x60000002 = .error .strayBits

/-- Rules R60 to R65, R80: the word of every command decodes to that command, with every operand at every value its field
holds; the two pseudo-commands decode as the `SETRATE` they expand to. -/
def Obligations.DecodeOfEncode : Prop := ∀ i : Instr, decodeWord (encode i) = .ok i.expand

/-- Rules R64, R66: a word that decodes is the word of the command it decodes to, so no two words mean one command and no
bit is ignored. -/
def Obligations.EncodeOfDecode : Prop := ∀ (w : CmdWord) (i : Instr), decodeWord w = .ok i → encode i = w

/-- Rule R64: no word selects two rows of the decoder's table. -/
def Obligations.RowsAreExclusive : Prop := ∀ w : CmdWord, (rows.filter (·.selects w)).length ≤ 1

/-- Rule R66: a word is illegal at the pattern check exactly when it is the word of no command. -/
def Obligations.IllegalWordsAreNoCommand : Prop :=
  ∀ w : CmdWord, (∃ e, decodeWord w = .error e) ↔ ∀ i : Instr, encode i ≠ w

/-- Rule R119: `PWRON` and `PWROFF` have no encoding of their own and no behaviour beyond `SETRATE 7` and `SETRATE 0`;
`PowerOn()` is the named `SetField`; the two examples. -/
def Obligations.PowerCommandsAreSetrate : Prop :=
  encode .pwron = encode (.setrate 7) ∧ encode .pwroff = encode (.setrate 0) ∧
  (∀ s, exec .pwron s = exec (.setrate 7) s) ∧ (∀ s, exec .pwroff s = exec (.setrate 0) s) ∧
  (∀ s, powerOnStep s = setField s.cfg.regCtrlRate 0xF0 4 7 s) ∧
  insertField 0x0F 0xF0 4 7 = 0x7F ∧ insertField 0x7F 0xF0 4 0 = 0x0F

/-! ### Pure functions -/

/-- Rule R112: the formula of `insert`, that bits outside the mask are those of `cur` and bits inside it those of the
shifted value, and the masks and positions of the three fields. The defaults of the protocol bit are decision D7 (log
entry 3). -/
def Obligations.InsertKeepsOtherBits : Prop :=
  (∀ (cur mask : Byte) (pos : Nat) (val : Byte),
    insertField cur mask pos val = (cur &&& (~~~mask &&& 0xFF#8)) ||| ((val <<< pos) &&& mask) ∧
    ∀ k, (insertField cur mask pos val).getLsbD k =
      if mask.getLsbD k then (val <<< pos).getLsbD k else cur.getLsbD k) ∧
  rateMask = 0xF0 ∧ ratePos = 4 ∧ fsMask = 0x30 ∧ fsPos = 4 ∧
  (∀ c : Cfg, ∀ k : Nat, (simMask c).getLsbD k = decide (k = c.simBit.val)) ∧
  simMask (defaultCfg .spi .lo) = 0x01 ∧ (defaultCfg .spi .lo).simBit = 0

/-- Rule R73: the three parts of the first byte of a chip-select-bus frame. The value of `MS` for an access is decision D10. -/
def Obligations.SpiCommandByteFields : Prop :=
  ∀ (rd ms : Bool) (a : Byte), (spiCmd rd ms a).getLsbD 7 = rd ∧ (spiCmd rd ms a).getLsbD 6 = ms ∧
    ∀ k, k < 6 → (spiCmd rd ms a).getLsbD k = a.getLsbD k

/-- Rule R78: the frames of the fixed registers with the default parameters (decisions D5, D6, D10, D25). -/
def Obligations.FixedFrames : Prop :=
  (∀ b, let c := defaultCfg .spi b
    readCall c regId 1 = .spiWriteThenRead [0x8F] 1 ∧ readCall c c.regCtrlRate 1 = .spiWriteThenRead [0xA0] 1 ∧
    readCall c c.regCtrlScale 1 = .spiWriteThenRead [0xA3] 1 ∧ readCall c regOutXL burstLen = .spiWriteThenRead [0xE8] 6 ∧
    (∀ v, writeCall c c.regCtrlRate v = .spiWrite [0x20, v] ∧ writeCall c c.regCtrlScale v = .spiWrite [0x23, v])) ∧
  (∀ b, let c := defaultCfg .i2c b
    readCall c regId 1 = .i2cWriteThenRead c.devAddr [0x0F] 1 ∧
    readCall c c.regCtrlRate 1 = .i2cWriteThenRead c.devAddr [0x20] 1 ∧
    readCall c c.regCtrlScale 1 = .i2cWriteThenRead c.devAddr [0x23] 1 ∧
    readCall c regOutXL burstLen = .i2cWriteThenRead c.devAddr [0x28] 6 ∧
    (∀ v, writeCall c c.regCtrlRate v = .i2cWrite c.devAddr [0x20, v] ∧
      writeCall c c.regCtrlScale v = .i2cWrite c.devAddr [0x23, v]))

/-- Rule R146: `assemble` is the low byte first combination read as signed, a bijection, and the axes take the reply bytes in
the order x low, x high, y low, y high, z low, z high. -/
def Obligations.AssembleIsLowByteFirst : Prop :=
  (∀ lo hi : Byte, (assemble lo hi).toNat = hi.toNat * 256 + lo.toNat ∧
    (assemble lo hi).toInt =
      if hi.toNat < 128 then (hi.toNat * 256 + lo.toNat : Int) else (hi.toNat * 256 + lo.toNat : Int) - 65536) ∧
  Function.Bijective (fun p : Byte × Byte => assemble p.1 p.2) ∧
  (∀ b : Bytes6, assembleAxes b = ⟨assemble b.b0 b.b1, assemble b.b2 b.b3, assemble b.b4 b.b5⟩)

/-- Rule R152: the two forms of `ideal` are the same number, the line meets the two fixed points, and `scale` is the nearest
integer to `ideal * 2^FRAC`, never a tie. The fixed-point encoding is decision D3. -/
def Obligations.ScaleIsNearestToTheLine : Prop :=
  ∀ (frac : Nat) (v : Int) (f : FsCode),
    ideal v f = limit f * (2 * v + 1) / 65535 ∧ ideal 32767 f = limit f ∧ ideal (-32768) f = -limit f ∧
    |(scaleInt frac v f : ℚ) - ideal v f * 2 ^ frac| < 1 / 2

/-- Rule R152: with `FRAC` at most 26 the result of a 16-bit code lies within `-L * 2^FRAC` and `L * 2^FRAC`, so that the 32-bit
register holds it without a wrap (decision D3). -/
def Obligations.ScaleDoesNotWrap : Prop :=
  ∀ (frac : Fin 27) (v : Raw) (f : FsCode),
    (scale frac.val v f).toInt = scaleInt frac.val v.toInt f ∧
    -(limit f * 2 ^ frac.val) ≤ scaleInt frac.val v.toInt f ∧ scaleInt frac.val v.toInt f ≤ limit f * 2 ^ frac.val

/-- Rule R154, the first four rows: end points exact, antisymmetric about -1/2, monotone, strictly increasing at
`FRAC` = 16. -/
def Obligations.ScaleShape : Prop :=
  (∀ (frac : Nat) (f : FsCode), scaleInt frac 32767 f = limit f * 2 ^ frac ∧
    scaleInt frac (-32768) f = -(limit f * 2 ^ frac)) ∧
  (∀ (frac : Nat) (f : FsCode) (v : Int), scaleInt frac (-v - 1) f = -scaleInt frac v f) ∧
  (∀ (frac : Nat) (f : FsCode) (v w : Int), v ≤ w → scaleInt frac v f ≤ scaleInt frac w f) ∧
  (∀ (f : FsCode) (v w : Int), v < w → scaleInt 16 v f < scaleInt 16 w f)

/-- Rule R154, the last rows at `FRAC` = 16: zero is not zero, and a step of the range at most one off twice the value. -/
def Obligations.ScaleRangesNest : Prop :=
  (∀ f : FsCode, scaleInt 16 0 f = limit f) ∧
  (∀ (frac : Nat) (v : Int) (f : FsCode), f.toNat < 3 →
    |scaleInt frac v (f + 1) - 2 * scaleInt frac v f| ≤ 1)

/-- Rules R8, R150: the limits of the four codes. -/
def Obligations.LimitOfEachCode : Prop :=
  limit 0 = 2 ∧ limit 1 = 4 ∧ limit 2 = 8 ∧ limit 3 = 16

/-- Rule R71: the numeric status codes (decision D4), all different, none 6 or 7. -/
def Obligations.StatusCodes : Prop :=
  statusCode .ok = 0 ∧ statusCode .deviceMismatch = 1 ∧ statusCode .transport = 2 ∧ statusCode .badCommand = 3 ∧
  statusCode .notReady = 4 ∧ statusCode .unsupported = 5 ∧ (∀ st, (statusCode st).toNat < 6) ∧
  (∀ st st', statusCode st = statusCode st' → st = st')

/-! ### The framed accesses -/

/-- Rule R93: a framed read on SPI, for both outcomes of the transport call. The `MS` bit of a one-byte read and one bracket
for each call are decisions D10 and D13. -/
def Obligations.SpiReadFrame : Prop :=
  ∀ (s : State) (r : Byte) (n : Nat) (b : Bytes6),
    s.cfg.bus = .spi → r.toNat ≤ 0x3F → 1 ≤ n → n ≤ 6 →
    let c : Byte := 0x80#8 ||| (if 1 < n then 0x40#8 else 0x00#8) ||| r
    let after (res : CallResult) : State :=
      { s with
        csLevel := .high
        trace := s.trace ++ [.csLow, .transport (.spiWriteThenRead [c] n) res, .csHigh]
        oracle := s.oracle.drop 1
        calls := s.calls + 1 }
    (s.answerAt 0 = .ok b → memRead r n s = .ok b (after (.ok ((bytesList b).take n)))) ∧
    (s.answerAt 0 = .fail → memRead r n s = .raised .transport (after .fail))

/-- Rule R94: a framed read on I2C, for both outcomes of the transport call; the register byte goes out unchanged. -/
def Obligations.I2cReadFrame : Prop :=
  ∀ (s : State) (r : Byte) (n : Nat) (b : Bytes6),
    s.cfg.bus = .i2c → 1 ≤ n → n ≤ 6 →
    let after (res : CallResult) : State :=
      { s with
        trace := s.trace ++ [.transport (.i2cWriteThenRead s.cfg.devAddr [r] n) res]
        oracle := s.oracle.drop 1
        calls := s.calls + 1 }
    (s.answerAt 0 = .ok b → memRead r n s = .ok b (after (.ok ((bytesList b).take n)))) ∧
    (s.answerAt 0 = .fail → memRead r n s = .raised .transport (after .fail))

/-- Rule R96: the framed write on both buses, for both outcomes of the transport call. The clear `MS` bit, one bracket for
each call and the I2C payload are decisions D10, D13 and D25. -/
def Obligations.WriteFrames : Prop :=
  ∀ (s : State) (r b : Byte) (rx : Bytes6),
    (s.cfg.bus = .spi → r.toNat ≤ 0x3F →
      let after (res : CallResult) : State :=
        { s with
          csLevel := .high
          trace := s.trace ++ [.csLow, .transport (.spiWrite [r, b]) res, .csHigh]
          oracle := s.oracle.drop 1
          calls := s.calls + 1 }
      (s.answerAt 0 = .ok rx → memWrite r b s = .ok () (after (.ok []))) ∧
      (s.answerAt 0 = .fail → memWrite r b s = .raised .transport (after .fail))) ∧
    (s.cfg.bus = .i2c →
      let after (res : CallResult) : State :=
        { s with
          trace := s.trace ++ [.transport (.i2cWrite s.cfg.devAddr [r, b]) res]
          oracle := s.oracle.drop 1
          calls := s.calls + 1 }
      (s.answerAt 0 = .ok rx → memWrite r b s = .ok () (after (.ok []))) ∧
      (s.answerAt 0 = .fail → memWrite r b s = .raised .transport (after .fail)))

/-- Rules R110, R112, R116: the read-modify-write: when both accesses succeed the byte read is written back with the field
inserted, whether or not it differs (decision D23); a failed read is the last access, and a failed write undoes nothing. -/
def Obligations.ReadModifyWriteSteps : Prop :=
  ∀ (s : State) (reg mask : Byte) (pos : Nat) (val : Byte) (b c : Bytes6),
    let after (k : Nat) (evs : List Event) : State :=
      { s with
        csLevel := s.restLevel
        trace := s.trace ++ evs
        oracle := s.oracle.drop k
        calls := s.calls + k }
    let new := insertField b.b0 mask pos val
    (s.answerAt 0 = .ok b → s.answerAt 1 = .ok c →
      setField reg mask pos val s = .ok () (after 2 (readOk s.cfg reg 1 b ++ writeOk s.cfg reg new))) ∧
    (s.answerAt 0 = .fail → setField reg mask pos val s = .raised .transport (after 1 (readFail s.cfg reg 1))) ∧
    (s.answerAt 0 = .ok b → s.answerAt 1 = .fail →
      setField reg mask pos val s = .raised .transport (after 2 (readOk s.cfg reg 1 b ++ writeFail s.cfg reg new)))

/-! ### Reset, the step and admission -/

/-- Rules R38, R200: what reset leaves. The spec marks the values as its own decision D11; no response, no presented word and
no listed answer are the model's (log entries 5, 8, 9). -/
def Obligations.ResetState : Prop :=
  ∀ c : Cfg, let s := State.resetWith c
    s.fs = 0 ∧ s.initOk = false ∧ s.csLevel = .high ∧ s.activity = .idle ∧ s.trace = [] ∧ s.cfg = c ∧
    s.resp = none ∧ s.inbox = [] ∧ s.oracle = [] ∧ s.calls = 0 ∧ State.reset = State.resetWith (defaultCfg .spi .lo)

/-- Rules R10, R174: an idle block takes the word the host presents, and when it decodes it runs that command. -/
def Obligations.StepRunsTheCommand : Prop :=
  ∀ (s : State) (w : CmdWord) (ws : List CmdWord) (i : Instr),
    s.activity = .idle → s.inbox = w :: ws → decodeWord w = .ok i → step s = exec i { s with inbox := ws }

/-- Log entry 9: the word that `withFetchWord` places is the one the very next step runs. -/
def Obligations.PlacedWordRuns : Prop :=
  ∀ (s : State) (w : CmdWord) (i : Instr),
    decodeWord w = .ok i → step (s.withFetchWord 32 w.toNat) = exec i { s with activity := .idle }

/-- Rules R66, R174 (check 1), R176: a word that selects no row is answered with `BAD_COMMAND`, with no bus activity and no other
change. -/
def Obligations.IllegalWordIsBadCommand : Prop :=
  ∀ (s : State) (w : CmdWord) (ws : List CmdWord) (e : Reject),
    s.activity = .idle → s.inbox = w :: ws → decodeWord w = .error e →
    step s = .next { s with inbox := ws, resp := some (bareResp .badCommand) }

/-- Rules R10, R98, R217: with no word presented the block stays as it is, and so does a block whose transport call never
returned, whatever the host presents. -/
def Obligations.StepWaits : Prop :=
  ∀ s : State, (s.activity = .idle ∧ s.inbox = [] ∨ ∃ c, s.activity = .waiting c) → step s = .next s

/-- Rules R65, R172, R174 (check 2): a command with an operand out of range is answered with `BAD_COMMAND`, before readiness is
looked at (decisions D9, D14, D15, D22). -/
def Obligations.BadOperandIsBadCommand : Prop :=
  (∀ (s : State) (reg : Byte) (len : BitVec 4),
    (len = 0 ∨ 6 < len.toNat ∨ s.cfg.bus = .spi ∧ 0x3F < reg.toNat) →
    exec (.rdreg reg len) s = .next (s.refusedWith .badCommand)) ∧
  (∀ (s : State) (reg data : Byte), s.cfg.bus = .spi → 0x3F < reg.toNat →
    exec (.wrreg reg data) s = .next (s.refusedWith .badCommand)) ∧
  (∀ (s : State) (mode : BitVec 4), 9 < mode.toNat → exec (.setrate mode) s = .next (s.refusedWith .badCommand))

/-- Rules R124, R174 (check 3): `SETSPI` on I2C, or asking for three-wire, is answered with `UNSUPPORTED`, with no bus activity, ready or
not (decisions D20, D22). -/
def Obligations.SetspiIsRefused : Prop :=
  ∀ (s : State) (mode : SpiMode), s.cfg.bus = .i2c ∨ mode = .threeWire →
    exec (.setspi mode) s = .next (s.refusedWith .unsupported)

/-- Rules R22, R174 (check 4): while `INIT_OK` is 0 every command but `INIT` that passes the earlier checks is answered with
`NOT_READY`, with no bus activity and no other change (decisions D16, D22). -/
def Obligations.NotReadyIsRefused : Prop :=
  ∀ (s : State) (i : Instr), s.initOk = false → (∀ f, i ≠ .init f) → i.wellFormed s.cfg.bus = true →
    (∀ m, i = .setspi m → s.cfg.bus = .spi ∧ m = .fourWire) →
    exec i s = .next (s.refusedWith .notReady)

/-! ### Results of the commands -/

/-- Rule R100: a `RDREG` whose read succeeds. -/
def Obligations.RdregCompletes : Prop :=
  ∀ (s : State) (reg : Byte) (len : BitVec 4) (b : Bytes6),
    s.initOk = true → 1 ≤ len.toNat → len.toNat ≤ 6 → (s.cfg.bus = .spi → reg.toNat ≤ 0x3F) → s.answerAt 0 = .ok b →
    exec (.rdreg reg len) s = .next (s.ended 1 (readOk s.cfg reg len.toNat b)
      { bareResp .ok with len := len.setWidth 3, data := keepBytes len.toNat b })

/-- Rule R102: a `WRREG` whose write succeeds; `FS` is not changed, whatever the register. -/
def Obligations.WrregCompletes : Prop :=
  ∀ (s : State) (reg data : Byte) (b : Bytes6),
    s.initOk = true → (s.cfg.bus = .spi → reg.toNat ≤ 0x3F) → s.answerAt 0 = .ok b →
    exec (.wrreg reg data) s = .next (s.ended 1 (writeOk s.cfg reg data) (bareResp .ok))

/-- Rule R114: `VERIFY` answers `OK` exactly when the identity read returns 0x33, else `DEVICE_MISMATCH`; neither changes `ST`
(decision D30). -/
def Obligations.VerifyCompletes : Prop :=
  ∀ (s : State) (b : Bytes6), s.initOk = true → s.answerAt 0 = .ok b →
    exec .verify s = .next (s.ended 1 (readOk s.cfg 0x0F 1 b)
      (bareResp (if b.b0 = 0x33 then .ok else .deviceMismatch)))

/-- Rules R110, R116, R118, R119: `SETRATE`, `PWRON` and `PWROFF` read the rate/power control register and write it back with the mode
in bits [7:4] and the low nibble as read; `ST` is not changed. -/
def Obligations.RateCommandsComplete : Prop :=
  ∀ (s : State) (b c : Bytes6), s.initOk = true → s.answerAt 0 = .ok b → s.answerAt 1 = .ok c →
    let after (mode : BitVec 4) : State :=
      s.ended 2 (readOk s.cfg s.cfg.regCtrlRate 1 b ++
        writeOk s.cfg s.cfg.regCtrlRate ((b.b0 &&& 0x0F#8) ||| (mode.setWidth 8 <<< 4))) (bareResp .ok)
    (∀ mode : BitVec 4, mode.toNat ≤ 9 → exec (.setrate mode) s = .next (after mode)) ∧
    exec .pwron s = .next (after 7) ∧ exec .pwroff s = .next (after 0)

/-- Rules R110, R116, R120: `SETFS` reads the scale control register, writes it back with the code in bits [5:4] and the other bits as
read, and then stores the code in `FS`. -/
def Obligations.SetfsCompletes : Prop :=
  ∀ (s : State) (f : FsCode) (b c : Bytes6), s.initOk = true → s.answerAt 0 = .ok b → s.answerAt 1 = .ok c →
    exec (.setfs f) s = .next { s.ended 2 (readOk s.cfg s.cfg.regCtrlScale 1 b ++
      writeOk s.cfg s.cfg.regCtrlScale ((b.b0 &&& 0xCF#8) ||| (f.setWidth 8 <<< 4))) (bareResp .ok) with fs := f }

/-- Rules R116, R120, R177: a `SETFS` whose read or write fails ends with `TRANSPORT` at the failing call and keeps `FS`. -/
def Obligations.SetfsFailureKeepsTheRange : Prop :=
  ∀ (s : State) (f : FsCode) (b : Bytes6), s.initOk = true →
    (s.answerAt 0 = .fail →
      exec (.setfs f) s = .next (s.ended 1 (readFail s.cfg s.cfg.regCtrlScale 1) (bareResp .transport))) ∧
    (s.answerAt 0 = .ok b → s.answerAt 1 = .fail →
      exec (.setfs f) s = .next (s.ended 2 (readOk s.cfg s.cfg.regCtrlScale 1 b ++
        writeFail s.cfg s.cfg.regCtrlScale (insertField b.b0 0x30 4 (f.setWidth 8))) (bareResp .transport)))

/-- Rules R116, R118, R119, R172: a `SETRATE`, `PWRON` or `PWROFF` whose read or write fails ends with `TRANSPORT` at the failing
call; `ST` is not changed. -/
def Obligations.RateCommandsFail : Prop :=
  ∀ (s : State) (b : Bytes6), s.initOk = true →
    let atRead : State := s.ended 1 (readFail s.cfg s.cfg.regCtrlRate 1) (bareResp .transport)
    let atWrite (mode : BitVec 4) : State :=
      s.ended 2 (readOk s.cfg s.cfg.regCtrlRate 1 b ++
        writeFail s.cfg s.cfg.regCtrlRate ((b.b0 &&& 0x0F#8) ||| (mode.setWidth 8 <<< 4))) (bareResp .transport)
    (s.answerAt 0 = .fail →
      (∀ mode : BitVec 4, mode.toNat ≤ 9 → exec (.setrate mode) s = .next atRead) ∧
      exec .pwron s = .next atRead ∧ exec .pwroff s = .next atRead) ∧
    (s.answerAt 0 = .ok b → s.answerAt 1 = .fail →
      (∀ mode : BitVec 4, mode.toNat ≤ 9 → exec (.setrate mode) s = .next (atWrite mode)) ∧
      exec .pwron s = .next (atWrite 7) ∧ exec .pwroff s = .next (atWrite 0))

/-- Rules R110, R116, R124: `SETSPI W4` on SPI reads the protocol control register and writes it back with the protocol bit at the
four-wire value; `ST` is not changed. -/
def Obligations.SetspiCompletes : Prop :=
  ∀ (s : State) (b c : Bytes6), s.initOk = true → s.cfg.bus = .spi → s.answerAt 0 = .ok b → s.answerAt 1 = .ok c →
    exec (.setspi .fourWire) s = .next (s.ended 2 (readOk s.cfg s.cfg.regCtrlSim 1 b ++
      writeOk s.cfg s.cfg.regCtrlSim (insertField b.b0 (1#8 <<< s.cfg.simBit.val) s.cfg.simBit.val
        (s.cfg.simFourWire.setWidth 8))) (bareResp .ok))

/-- Rules R116, R124, R172: a `SETSPI W4` on SPI whose read or write fails ends with `TRANSPORT` at the failing call; `ST` is not
changed. -/
def Obligations.SetspiFails : Prop :=
  ∀ (s : State) (b : Bytes6), s.initOk = true → s.cfg.bus = .spi →
    (s.answerAt 0 = .fail →
      exec (.setspi .fourWire) s = .next (s.ended 1 (readFail s.cfg s.cfg.regCtrlSim 1) (bareResp .transport))) ∧
    (s.answerAt 0 = .ok b → s.answerAt 1 = .fail →
      exec (.setspi .fourWire) s = .next (s.ended 2 (readOk s.cfg s.cfg.regCtrlSim 1 b ++
        writeFail s.cfg s.cfg.regCtrlSim (insertField b.b0 (1#8 <<< s.cfg.simBit.val) s.cfg.simBit.val
          (s.cfg.simFourWire.setWidth 8))) (bareResp .transport)))

/-- Rules R128, R129: an `INIT` on I2C whose five accesses succeed and whose identity byte is 0x33, from any `INIT_OK`. -/
def Obligations.InitCompletesOnI2c : Prop :=
  ∀ (s : State) (f : FsCode) (b0 b1 b2 b3 b4 : Bytes6),
    s.cfg.bus = .i2c → s.answerAt 0 = .ok b0 → b0.b0 = 0x33 → s.answerAt 1 = .ok b1 → s.answerAt 2 = .ok b2 →
    s.answerAt 3 = .ok b3 → s.answerAt 4 = .ok b4 →
    exec (.init f) s = .next { s.ended 5 (readOk s.cfg 0x0F 1 b0 ++
      (readOk s.cfg s.cfg.regCtrlRate 1 b1 ++ (writeOk s.cfg s.cfg.regCtrlRate (insertField b1.b0 0xF0 4 7) ++
      (readOk s.cfg s.cfg.regCtrlScale 1 b3 ++
        writeOk s.cfg s.cfg.regCtrlScale (insertField b3.b0 0x30 4 (f.setWidth 8)))))) (bareResp .ok) with
      fs := f, initOk := true }

/-- Rules R128, R129: an `INIT` on SPI whose seven accesses succeed and whose identity byte is 0x33: four-wire mode is forced first
(decision D12). -/
def Obligations.InitCompletesOnSpi : Prop :=
  ∀ (s : State) (f : FsCode) (b0 b1 b2 b3 b4 b5 b6 : Bytes6),
    s.cfg.bus = .spi → s.answerAt 0 = .ok b0 → s.answerAt 1 = .ok b1 → s.answerAt 2 = .ok b2 → b2.b0 = 0x33 →
    s.answerAt 3 = .ok b3 → s.answerAt 4 = .ok b4 → s.answerAt 5 = .ok b5 → s.answerAt 6 = .ok b6 →
    exec (.init f) s = .next { s.ended 7 (readOk s.cfg s.cfg.regCtrlSim 1 b0 ++
      (writeOk s.cfg s.cfg.regCtrlSim (insertField b0.b0 (1#8 <<< s.cfg.simBit.val) s.cfg.simBit.val
        (s.cfg.simFourWire.setWidth 8)) ++
      (readOk s.cfg 0x0F 1 b2 ++
      (readOk s.cfg s.cfg.regCtrlRate 1 b3 ++ (writeOk s.cfg s.cfg.regCtrlRate (insertField b3.b0 0xF0 4 7) ++
      (readOk s.cfg s.cfg.regCtrlScale 1 b5 ++
        writeOk s.cfg s.cfg.regCtrlScale (insertField b5.b0 0x30 4 (f.setWidth 8)))))))) (bareResp .ok) with
      fs := f, initOk := true }

/-- Rules R128, R172, R176, R177: an `INIT` on I2C, from any `INIT_OK`, ends with `TRANSPORT` at the first of its five accesses that
fails; `FS` is kept and the block is not ready. -/
def Obligations.InitFailsOnI2c : Prop :=
  ∀ (s : State) (f : FsCode) (b0 b1 b2 b3 : Bytes6), s.cfg.bus = .i2c →
    let c := s.cfg
    let endsAt (k : Nat) (evs : List Event) : Prop :=
      exec (.init f) s = .next { s.ended k evs (bareResp .transport) with initOk := false }
    let identity := readOk c 0x0F 1 b0
    let rateRead := readOk c c.regCtrlRate 1 b1
    let rate := insertField b1.b0 0xF0 4 7
    let scaleRead := readOk c c.regCtrlScale 1 b3
    (s.answerAt 0 = .fail → endsAt 1 (readFail c 0x0F 1)) ∧
    (s.answerAt 0 = .ok b0 → b0.b0 = 0x33 →
      (s.answerAt 1 = .fail → endsAt 2 (identity ++ readFail c c.regCtrlRate 1)) ∧
      (s.answerAt 1 = .ok b1 →
        (s.answerAt 2 = .fail → endsAt 3 (identity ++ rateRead ++ writeFail c c.regCtrlRate rate)) ∧
        (s.answerAt 2 = .ok b2 →
          (s.answerAt 3 = .fail →
            endsAt 4 (identity ++ rateRead ++ writeOk c c.regCtrlRate rate ++ readFail c c.regCtrlScale 1)) ∧
          (s.answerAt 3 = .ok b3 → s.answerAt 4 = .fail →
            endsAt 5 (identity ++ rateRead ++ writeOk c c.regCtrlRate rate ++ scaleRead ++
              writeFail c c.regCtrlScale (insertField b3.b0 0x30 4 (f.setWidth 8)))))))

/-- Rules R128, R172, R176, R177: an `INIT` on SPI, from any `INIT_OK`, ends with `TRANSPORT` at the first of its seven accesses that
fails; `FS` is kept and the block is not ready. The place of the protocol step is decision D12. -/
def Obligations.InitFailsOnSpi : Prop :=
  ∀ (s : State) (f : FsCode) (b0 b1 b2 b3 b4 b5 : Bytes6), s.cfg.bus = .spi →
    let c := s.cfg
    let endsAt (k : Nat) (evs : List Event) : Prop :=
      exec (.init f) s = .next { s.ended k evs (bareResp .transport) with initOk := false }
    let simRead := readOk c c.regCtrlSim 1 b0
    let sim := insertField b0.b0 (1#8 <<< c.simBit.val) c.simBit.val (c.simFourWire.setWidth 8)
    let fourWire := simRead ++ writeOk c c.regCtrlSim sim
    let identity := fourWire ++ readOk c 0x0F 1 b2
    let rateRead := identity ++ readOk c c.regCtrlRate 1 b3
    let rate := insertField b3.b0 0xF0 4 7
    let powered := rateRead ++ writeOk c c.regCtrlRate rate
    (s.answerAt 0 = .fail → endsAt 1 (readFail c c.regCtrlSim 1)) ∧
    (s.answerAt 0 = .ok b0 →
      (s.answerAt 1 = .fail → endsAt 2 (simRead ++ writeFail c c.regCtrlSim sim)) ∧
      (s.answerAt 1 = .ok b1 →
        (s.answerAt 2 = .fail → endsAt 3 (fourWire ++ readFail c 0x0F 1)) ∧
        (s.answerAt 2 = .ok b2 → b2.b0 = 0x33 →
          (s.answerAt 3 = .fail → endsAt 4 (identity ++ readFail c c.regCtrlRate 1)) ∧
          (s.answerAt 3 = .ok b3 →
            (s.answerAt 4 = .fail → endsAt 5 (rateRead ++ writeFail c c.regCtrlRate rate)) ∧
            (s.answerAt 4 = .ok b4 →
              (s.answerAt 5 = .fail → endsAt 6 (powered ++ readFail c c.regCtrlScale 1)) ∧
              (s.answerAt 5 = .ok b5 → s.answerAt 6 = .fail →
                endsAt 7 (powered ++ readOk c c.regCtrlScale 1 b5 ++
                  writeFail c c.regCtrlScale (insertField b5.b0 0x30 4 (f.setWidth 8)))))))))

/-- Rules R114, R128, R172: an `INIT` whose identity byte is not 0x33 ends there with `DEVICE_MISMATCH`; no further step runs, `FS` is
kept and the block is not ready. -/
def Obligations.InitStopsOnMismatch : Prop :=
  (∀ (s : State) (f : FsCode) (b : Bytes6),
    s.cfg.bus = .i2c → s.answerAt 0 = .ok b → b.b0 ≠ 0x33 →
    exec (.init f) s = .next { s.ended 1 (readOk s.cfg 0x0F 1 b) (bareResp .deviceMismatch) with initOk := false }) ∧
  (∀ (s : State) (f : FsCode) (b0 b1 b2 : Bytes6),
    s.cfg.bus = .spi → s.answerAt 0 = .ok b0 → s.answerAt 1 = .ok b1 → s.answerAt 2 = .ok b2 → b2.b0 ≠ 0x33 →
    exec (.init f) s = .next { s.ended 3 (readOk s.cfg s.cfg.regCtrlSim 1 b0 ++
      (writeOk s.cfg s.cfg.regCtrlSim (insertField b0.b0 (1#8 <<< s.cfg.simBit.val) s.cfg.simBit.val
        (s.cfg.simFourWire.setWidth 8)) ++ readOk s.cfg 0x0F 1 b2)) (bareResp .deviceMismatch) with initOk := false })

/-- Rule R22: after an `INIT`, `INIT_OK` is 1 exactly when its response is `OK`, and then `FS` is the requested code and the identity
read returned 0x33; otherwise `FS` is kept. -/
def Obligations.InitOkMeansInitEndedOk : Prop :=
  ∀ (s t : State) (f : FsCode), exec (.init f) s = .next t →
    (t.initOk = true ↔ ∃ r, t.resp = some r ∧ r.status = .ok) ∧
    (t.initOk = true → t.fs = f ∧
      ∃ e ∈ t.trace.drop s.trace.length, e = .transport (readCall s.cfg 0x0F 1) (.ok [0x33])) ∧
    (t.initOk = false → t.fs = s.fs)

/-- Rules R142, R144, R146, R150, R152: `SAMPLE` reads six bytes at 0x28 in one access, assembles the three axes and scales them with the
stored `FS`, whatever the bytes are (rule R148); `ST` is not changed. -/
def Obligations.SampleCompletes : Prop :=
  ∀ (s : State) (b : Bytes6), s.initOk = true → s.answerAt 0 = .ok b →
    let x := assemble b.b0 b.b1
    let y := assemble b.b2 b.b3
    let z := assemble b.b4 b.b5
    exec .sample s = .next (s.ended 1 (readOk s.cfg 0x28 6 b)
      { bareResp .ok with
        fs := s.fs
        raw := ⟨x, y, z⟩
        acc := ⟨scale s.cfg.frac x s.fs, scale s.cfg.frac y s.fs, scale s.cfg.frac z s.fs⟩ })

/-- Rules R100, R102, R114, R142, R176: the commands with one access end with `TRANSPORT` and a zero payload when it fails. -/
def Obligations.FailedAccessIsTransport : Prop :=
  ∀ s : State, s.initOk = true → s.answerAt 0 = .fail →
    (∀ (reg : Byte) (len : BitVec 4), 1 ≤ len.toNat → len.toNat ≤ 6 → (s.cfg.bus = .spi → reg.toNat ≤ 0x3F) →
      exec (.rdreg reg len) s = .next (s.ended 1 (readFail s.cfg reg len.toNat) (bareResp .transport))) ∧
    (∀ reg data : Byte, (s.cfg.bus = .spi → reg.toNat ≤ 0x3F) →
      exec (.wrreg reg data) s = .next (s.ended 1 (writeFail s.cfg reg data) (bareResp .transport))) ∧
    exec .verify s = .next (s.ended 1 (readFail s.cfg 0x0F 1) (bareResp .transport)) ∧
    exec .sample s = .next (s.ended 1 (readFail s.cfg 0x28 6) (bareResp .transport))

/-- Rule R218: a `SAMPLE` that answers `OK` right after a `SETFS` that answered `OK` reports the new code and scales with it. -/
def Obligations.SetfsThenSample : Prop :=
  ∀ (s t u : State) (f : FsCode) (r q : Resp),
    exec (.setfs f) s = .next t → t.resp = some r → r.status = .ok →
    exec .sample t = .next u → u.resp = some q → q.status = .ok →
    q.fs = f ∧ q.acc = scaleAxes s.cfg.frac.val f q.raw

/-! ### Whole-machine rules -/

/-- Every step answers a next state: no step faults and none refuses (log entry 20, from rules R27, R170 and R184). -/
def Obligations.EveryStepGoesOn : Prop := ∀ s : State, ∃ t, step s = .next t

/-- Rules R6, R11, R21, R22, R24: the frame of every command, whatever its outcome: the parameters and the words the host will present are
kept, the trace only grows, `FS` is kept by all but `SETFS` and `INIT`, and `INIT_OK` by all but `INIT`. -/
def Obligations.CommandFrame : Prop :=
  ∀ (i : Instr) (s t : State), exec i s = .next t →
    t.cfg = s.cfg ∧ t.inbox = s.inbox ∧ s.trace <+: t.trace ∧ (s.cfg.bus = .i2c → t.csLevel = s.csLevel) ∧
    ((∀ f, i ≠ .setfs f) → (∀ f, i ≠ .init f) → t.fs = s.fs) ∧ ((∀ f, i ≠ .init f) → t.initOk = s.initOk)

/-- Rules R176, R177: what a command that ends with a status other than `OK` leaves: `FS` as it was, `INIT_OK` as it was or 0 after
`INIT`, and a zero payload. -/
def Obligations.FailureLeaves : Prop :=
  ∀ (i : Instr) (s t : State) (r : Resp), exec i s = .next t → t.resp = some r → r.status ≠ .ok →
    t.fs = s.fs ∧ t.activity = .idle ∧ r = bareResp r.status ∧
    ((∀ f, i ≠ .init f) → t.initOk = s.initOk) ∧ ((∃ f, i = .init f) → t.initOk = false)

/-- Rules R52, R178: the transport calls of a command that ended all returned `Ok`, but for the last one exactly when the status is
`TRANSPORT`; the answers were taken in order, one for each call. -/
def Obligations.FailuresArePrecise : Prop :=
  ∀ (i : Instr) (s t : State) (r : Resp), exec i s = .next t → t.resp = some r →
    ∃ n, callsOf (t.trace.drop s.trace.length) =
      List.replicate n true ++ (if r.status = .transport then [false] else []) ∧
      t.calls = s.calls + (callsOf (t.trace.drop s.trace.length)).length ∧
      t.oracle = s.oracle.drop (callsOf (t.trace.drop s.trace.length)).length

/-- Rule R220: the number of transport calls of each command that ends with `OK`. -/
def Obligations.CallsOfSuccess : Prop :=
  ∀ (i : Instr) (s t : State) (r : Resp), exec i s = .next t → t.resp = some r → r.status = .ok →
    callsOf (t.trace.drop s.trace.length) = List.replicate (callCount s.cfg.bus i) true

/-- Rules R98, R211, R217: any transport call of an admitted command may be the one that never returns. If the calls before it
returned `Ok` (and `INIT` read 0x33), the block is left in that call (`callsIn`, by the table of rule R41), with the events of the
calls before it, on SPI with the line low behind its `CsLow`; `FS` is kept, `INIT_OK` is 0 in an `INIT` and else kept; no later step
changes anything. What is seen of such a call is log entry 6, that no earlier response stays presented log entry 8. -/
def Obligations.NeverReturningCall : Prop :=
  ∀ (i : Instr) (s : State) (rx : Nat → Bytes6) (k : Nat) (c : Call),
    i.wellFormed s.cfg.bus = true → (∀ m, i = .setspi m → s.cfg.bus = .spi ∧ m = .fourWire) →
    ((∀ f, i ≠ .init f) → s.initOk = true) →
    (callsIn s.cfg rx i)[k]? = some c → (∀ j, j < k → s.answerAt j = .ok (rx j)) → s.answerAt k = .never →
    ((∃ f, i = .init f) → identityCall s.cfg.bus < k → (rx (identityCall s.cfg.bus)).b0 = 0x33) →
    let t : State := { s.hungIn k (okEvents s.cfg rx ((callsIn s.cfg rx i).take k)) c with
      initOk := if needsReady i then s.initOk else false }
    exec i s = .next t ∧ step t = .next t

/-- Rules R23, R70, R97, R99, R211: the invariant that every step keeps, from every state that has it: brackets closed and the line
high when the block is idle, legal frames only, replies of the length asked for, and a zero payload of every failure. -/
def Obligations.StepKeepsInv : Prop := ∀ s t : State, s.Inv → step s = .next t → t.Inv

/-- Rules R38, R200: the invariant holds after reset, for every `CFG`. -/
def Obligations.ResetHasInv : Prop := State.reset.Inv ∧ ∀ c : Cfg, (State.resetWith c).Inv

/-- Rules R2, R91: a command with the same steps on both buses, given the same answers, gives the host the same response and leaves the
same `ST` on I2C and on SPI. -/
def Obligations.BusesAgree : Prop :=
  ∀ (i : Instr) (s t u : State), sameSteps i = true → i.wellFormed .spi = true →
    exec i (s.onBus .i2c) = .next t → exec i (s.onBus .spi) = .next u → t.looksLike u

/-- Rules R11, R24: `TRACE` is a record: what a command does and appends does not depend on what the record held. -/
def Obligations.TraceIsOnlyARecord : Prop :=
  ∀ (i : Instr) (s t : State), exec i s = .next t →
    ∃ evs, t.trace = s.trace ++ evs ∧
      ∀ tr : List Event, exec i { s with trace := tr } = .next { t with trace := tr ++ evs }

/-- Rules R29, R180: no error is sticky: what a command does is independent of the response presented before it. -/
def Obligations.EarlierResponseHasNoEffect : Prop :=
  ∀ (i : Instr) (s : State) (r : Option Resp), exec i { s with resp := r } = exec i s

/-- Rules R9, R26, R41: reply bytes past the ones a command's first access asks for have no effect: with two answers that agree on
these, the next states agree in every field but the list of answers to come (which keeps its head when the command is refused). -/
def Obligations.UnaskedBytesAreNotRead : Prop :=
  ∀ (i : Instr) (s t : State) (b c : Bytes6) (as : List Answer), sameFirst (bytesRead i) b c →
    exec i { s with oracle := .ok b :: as } = .next t →
    ∃ u, exec i { s with oracle := .ok c :: as } = .next u ∧ u = { t with oracle := u.oracle }
end

