-- ==== Sys2Proof/Laws/Decode.lean ====
section
/-! SUPPORT. Small lemmas about the command word: its fields, the agreement of the operand checks with `wellFormed`, and the
expansion of the pseudo-commands. -/

namespace Sys2Proof

/-- The value checks of the decoder pass exactly for the well-formed commands (rule R65). -/
theorem checkOperands_eq_none_iff (b : Bus) (i : Instr) : checkOperands b i = none ↔ i.wellFormed b = true := by
  cases i <;> cases b <;>
    simp only [checkOperands, Instr.wellFormed, Bus.reaches, Machine.maxBurst, Machine.rateMax] <;>
    (repeat' split) <;> simp_all <;> omega

section
variable (op len : BitVec 4) (reg data : Byte) (arg : BitVec 4)

@[simp] theorem fieldOp_packWord : fieldOp (packWord op len reg data arg) = op := by
  ext i hi
  simp [fieldOp, packWord]
  grind

@[simp] theorem fieldLen_packWord : fieldLen (packWord op len reg data arg) = len := by
  ext i hi
  simp [fieldLen, packWord]
  grind

@[simp] theorem fieldReg_packWord : fieldReg (packWord op len reg data arg) = reg := by
  ext i hi
  simp [fieldReg, packWord]
  grind

@[simp] theorem fieldData_packWord : fieldData (packWord op len reg data arg) = data := by
  ext i hi
  simp [fieldData, packWord]
  grind

@[simp] theorem fieldArg_packWord : fieldArg (packWord op len reg data arg) = arg := by
  ext i hi
  simp [fieldArg, packWord]
  grind

end

@[simp] theorem expand_expand (i : Instr) : i.expand.expand = i.expand := by cases i <;> rfl

end Sys2Proof
end

