-- ==== Sys2Proof/Laws/State.lean ====
section
/-! SUPPORT. One lemma per field per update of the state, and what each update does to the answers to come, so that no
later proof unfolds a record update. -/

namespace Sys2Proof.Machine

section
variable (s : State) (e : Event)

@[simp] theorem State.emit_cfg : (s.emit e).cfg = s.cfg := rfl
@[simp] theorem State.emit_fs : (s.emit e).fs = s.fs := rfl
@[simp] theorem State.emit_initOk : (s.emit e).initOk = s.initOk := rfl
@[simp] theorem State.emit_csLevel : (s.emit e).csLevel = s.csLevel := rfl
@[simp] theorem State.emit_activity : (s.emit e).activity = s.activity := rfl
@[simp] theorem State.emit_resp : (s.emit e).resp = s.resp := rfl
@[simp] theorem State.emit_trace : (s.emit e).trace = s.trace ++ [e] := rfl
@[simp] theorem State.emit_inbox : (s.emit e).inbox = s.inbox := rfl
@[simp] theorem State.emit_oracle : (s.emit e).oracle = s.oracle := rfl
@[simp] theorem State.emit_calls : (s.emit e).calls = s.calls := rfl
@[simp] theorem State.emit_answerAt (k : Nat) : (s.emit e).answerAt k = s.answerAt k := rfl

end

section
variable (s : State) (l : Level)

@[simp] theorem State.drive_cfg : (s.drive l).cfg = s.cfg := rfl
@[simp] theorem State.drive_fs : (s.drive l).fs = s.fs := rfl
@[simp] theorem State.drive_initOk : (s.drive l).initOk = s.initOk := rfl
@[simp] theorem State.drive_csLevel : (s.drive l).csLevel = l := rfl
@[simp] theorem State.drive_activity : (s.drive l).activity = s.activity := rfl
@[simp] theorem State.drive_resp : (s.drive l).resp = s.resp := rfl
@[simp] theorem State.drive_trace : (s.drive l).trace = s.trace ++ [levelEvent l] := rfl
@[simp] theorem State.drive_inbox : (s.drive l).inbox = s.inbox := rfl
@[simp] theorem State.drive_oracle : (s.drive l).oracle = s.oracle := rfl
@[simp] theorem State.drive_calls : (s.drive l).calls = s.calls := rfl
@[simp] theorem State.drive_answerAt (k : Nat) : (s.drive l).answerAt k = s.answerAt k := rfl

end

section
variable (s : State)

@[simp] theorem State.drawn_cfg : (s.drawn).cfg = s.cfg := rfl
@[simp] theorem State.drawn_fs : (s.drawn).fs = s.fs := rfl
@[simp] theorem State.drawn_initOk : (s.drawn).initOk = s.initOk := rfl
@[simp] theorem State.drawn_csLevel : (s.drawn).csLevel = s.csLevel := rfl
@[simp] theorem State.drawn_activity : (s.drawn).activity = s.activity := rfl
@[simp] theorem State.drawn_resp : (s.drawn).resp = s.resp := rfl
@[simp] theorem State.drawn_trace : (s.drawn).trace = s.trace := rfl
@[simp] theorem State.drawn_inbox : (s.drawn).inbox = s.inbox := rfl
@[simp] theorem State.drawn_oracle : (s.drawn).oracle = s.oracle.drop 1 := rfl
@[simp] theorem State.drawn_calls : (s.drawn).calls = s.calls + 1 := rfl

end

section
variable (s : State) (c : Call)

@[simp] theorem State.block_cfg : (s.block c).cfg = s.cfg := rfl
@[simp] theorem State.block_fs : (s.block c).fs = s.fs := rfl
@[simp] theorem State.block_initOk : (s.block c).initOk = s.initOk := rfl
@[simp] theorem State.block_csLevel : (s.block c).csLevel = s.csLevel := rfl
@[simp] theorem State.block_activity : (s.block c).activity = .waiting c := rfl
@[simp] theorem State.block_resp : (s.block c).resp = s.resp := rfl
@[simp] theorem State.block_trace : (s.block c).trace = s.trace := rfl
@[simp] theorem State.block_inbox : (s.block c).inbox = s.inbox := rfl
@[simp] theorem State.block_oracle : (s.block c).oracle = s.oracle := rfl
@[simp] theorem State.block_calls : (s.block c).calls = s.calls := rfl
@[simp] theorem State.block_answerAt (k : Nat) : (s.block c).answerAt k = s.answerAt k := rfl

end

section
variable (s : State) (f : FsCode)

@[simp] theorem State.setFs_cfg : (s.setFs f).cfg = s.cfg := rfl
@[simp] theorem State.setFs_fs : (s.setFs f).fs = f := rfl
@[simp] theorem State.setFs_initOk : (s.setFs f).initOk = s.initOk := rfl
@[simp] theorem State.setFs_csLevel : (s.setFs f).csLevel = s.csLevel := rfl
@[simp] theorem State.setFs_activity : (s.setFs f).activity = s.activity := rfl
@[simp] theorem State.setFs_resp : (s.setFs f).resp = s.resp := rfl
@[simp] theorem State.setFs_trace : (s.setFs f).trace = s.trace := rfl
@[simp] theorem State.setFs_inbox : (s.setFs f).inbox = s.inbox := rfl
@[simp] theorem State.setFs_oracle : (s.setFs f).oracle = s.oracle := rfl
@[simp] theorem State.setFs_calls : (s.setFs f).calls = s.calls := rfl
@[simp] theorem State.setFs_answerAt (k : Nat) : (s.setFs f).answerAt k = s.answerAt k := rfl

end

section
variable (s : State) (b : Bool)

@[simp] theorem State.setInitOk_cfg : (s.setInitOk b).cfg = s.cfg := rfl
@[simp] theorem State.setInitOk_fs : (s.setInitOk b).fs = s.fs := rfl
@[simp] theorem State.setInitOk_initOk : (s.setInitOk b).initOk = b := rfl
@[simp] theorem State.setInitOk_csLevel : (s.setInitOk b).csLevel = s.csLevel := rfl
@[simp] theorem State.setInitOk_activity : (s.setInitOk b).activity = s.activity := rfl
@[simp] theorem State.setInitOk_resp : (s.setInitOk b).resp = s.resp := rfl
@[simp] theorem State.setInitOk_trace : (s.setInitOk b).trace = s.trace := rfl
@[simp] theorem State.setInitOk_inbox : (s.setInitOk b).inbox = s.inbox := rfl
@[simp] theorem State.setInitOk_oracle : (s.setInitOk b).oracle = s.oracle := rfl
@[simp] theorem State.setInitOk_calls : (s.setInitOk b).calls = s.calls := rfl
@[simp] theorem State.setInitOk_answerAt (k : Nat) : (s.setInitOk b).answerAt k = s.answerAt k := rfl

end

section
variable (s : State)

@[simp] theorem State.accept_cfg : (s.accept).cfg = s.cfg := rfl
@[simp] theorem State.accept_fs : (s.accept).fs = s.fs := rfl
@[simp] theorem State.accept_initOk : (s.accept).initOk = s.initOk := rfl
@[simp] theorem State.accept_csLevel : (s.accept).csLevel = s.csLevel := rfl
@[simp] theorem State.accept_activity : (s.accept).activity = s.activity := rfl
@[simp] theorem State.accept_resp : (s.accept).resp = none := rfl
@[simp] theorem State.accept_trace : (s.accept).trace = s.trace := rfl
@[simp] theorem State.accept_inbox : (s.accept).inbox = s.inbox := rfl
@[simp] theorem State.accept_oracle : (s.accept).oracle = s.oracle := rfl
@[simp] theorem State.accept_calls : (s.accept).calls = s.calls := rfl
@[simp] theorem State.accept_answerAt (k : Nat) : (s.accept).answerAt k = s.answerAt k := rfl

end

section
variable (s : State) (r : Resp)

@[simp] theorem State.respond_cfg : (s.respond r).cfg = s.cfg := rfl
@[simp] theorem State.respond_fs : (s.respond r).fs = s.fs := rfl
@[simp] theorem State.respond_initOk : (s.respond r).initOk = s.initOk := rfl
@[simp] theorem State.respond_csLevel : (s.respond r).csLevel = s.csLevel := rfl
@[simp] theorem State.respond_activity : (s.respond r).activity = .idle := rfl
@[simp] theorem State.respond_resp : (s.respond r).resp = some r := rfl
@[simp] theorem State.respond_trace : (s.respond r).trace = s.trace := rfl
@[simp] theorem State.respond_inbox : (s.respond r).inbox = s.inbox := rfl
@[simp] theorem State.respond_oracle : (s.respond r).oracle = s.oracle := rfl
@[simp] theorem State.respond_calls : (s.respond r).calls = s.calls := rfl
@[simp] theorem State.respond_answerAt (k : Nat) : (s.respond r).answerAt k = s.answerAt k := rfl

end

section
variable (s : State)

@[simp] theorem State.take_cfg : (s.take).cfg = s.cfg := rfl
@[simp] theorem State.take_fs : (s.take).fs = s.fs := rfl
@[simp] theorem State.take_initOk : (s.take).initOk = s.initOk := rfl
@[simp] theorem State.take_csLevel : (s.take).csLevel = s.csLevel := rfl
@[simp] theorem State.take_activity : (s.take).activity = s.activity := rfl
@[simp] theorem State.take_resp : (s.take).resp = s.resp := rfl
@[simp] theorem State.take_trace : (s.take).trace = s.trace := rfl
@[simp] theorem State.take_inbox : (s.take).inbox = s.inbox.drop 1 := rfl
@[simp] theorem State.take_oracle : (s.take).oracle = s.oracle := rfl
@[simp] theorem State.take_calls : (s.take).calls = s.calls := rfl
@[simp] theorem State.take_answerAt (k : Nat) : (s.take).answerAt k = s.answerAt k := rfl

end

section
variable (s : State) (st : Status)

@[simp] theorem State.refuse_cfg : (s.refuse st).cfg = s.cfg := rfl
@[simp] theorem State.refuse_fs : (s.refuse st).fs = s.fs := rfl
@[simp] theorem State.refuse_initOk : (s.refuse st).initOk = s.initOk := rfl
@[simp] theorem State.refuse_csLevel : (s.refuse st).csLevel = s.csLevel := rfl
@[simp] theorem State.refuse_activity : (s.refuse st).activity = .idle := rfl
@[simp] theorem State.refuse_resp : (s.refuse st).resp = some (bareResp st) := rfl
@[simp] theorem State.refuse_trace : (s.refuse st).trace = s.trace := rfl
@[simp] theorem State.refuse_inbox : (s.refuse st).inbox = s.inbox := rfl
@[simp] theorem State.refuse_oracle : (s.refuse st).oracle = s.oracle := rfl
@[simp] theorem State.refuse_calls : (s.refuse st).calls = s.calls := rfl
@[simp] theorem State.refuse_answerAt (k : Nat) : (s.refuse st).answerAt k = s.answerAt k := rfl

end

theorem State.answerAt_zero_cons (s : State) (a : Answer) (as : List Answer) (h : s.oracle = a :: as) :
    s.answerAt 0 = a := by
  simp [State.answerAt, h]

/-- Using one answer up moves the others one place forward, listed or free. -/
@[simp] theorem State.drawn_answerAt (s : State) (k : Nat) : s.drawn.answerAt k = s.answerAt (k + 1) := by
  simp only [State.answerAt, State.drawn_oracle, State.drawn_calls, List.getElem?_drop]
  rw [Nat.add_comm 1 k, Nat.add_assoc, Nat.add_comm 1 k]

end Sys2Proof.Machine
end

