-- ==== Sys2Proof/Laws/Ops.lean ====
section
/-! SUPPORT. What each shared operation can do, said once: the three outcomes of a framed access, by the answer it gets
(rules R92, R95, R97, R98), of `SetField` (rule R116), and what admission lets through (rule R174). -/

namespace Sys2Proof.Machine

/-! ### Step lists -/

section
variable {α β : Type} (a : α) (st : Status) (s : State) (f : α → State → Run β)

@[simp] theorem Run.ok_andThen : (Run.ok a s).andThen f = f a s := rfl
@[simp] theorem Run.raised_andThen : (Run.raised st s).andThen f = .raised st s := rfl
@[simp] theorem Run.hung_andThen : (Run.hung s).andThen f = .hung s := rfl
@[simp] theorem Run.ok_deselect : (Run.ok a s).deselect = .ok a (s.drive .high) := rfl
@[simp] theorem Run.raised_deselect : (Run.raised (α := α) st s).deselect = .raised st (s.drive .high) := rfl
@[simp] theorem Run.hung_deselect : (Run.hung (α := α) s).deselect = .hung s := rfl
@[simp] theorem Run.ok_finish (r : Resp) : (Run.ok r s).finish = s.respond r := rfl
@[simp] theorem Run.raised_finish : (Run.raised st s).finish = s.respond (bareResp st) := rfl
@[simp] theorem Run.hung_finish : (Run.hung s).finish = s := rfl
@[simp] theorem respondOk_ok : respondOk (.ok () s) = .ok (bareResp .ok) s := rfl
@[simp] theorem respondOk_raised : respondOk (.raised st s) = .raised st s := rfl
@[simp] theorem respondOk_hung : respondOk (.hung s) = .hung s := rfl

end

/-! ### One framed access -/

/-- `s` after one transport call that returned, with its events and the line at rest; a framed access ends so whether
the call returned `Ok` or `Fail`. -/
def State.accessed (s : State) (evs : List Event) : State :=
  { s with
    csLevel := s.restLevel
    trace := s.trace ++ evs
    oracle := s.oracle.drop 1
    calls := s.calls + 1 }

/-- `s` in a transport call that never returns: on SPI the line stays low behind its `CsLow` (rule R98). -/
def State.stuckIn (s : State) (c : Call) : State :=
  { s with
    csLevel := s.callLevel
    activity := .waiting c
    trace := s.trace ++ openEvents s.cfg
    oracle := s.oracle.drop 1
    calls := s.calls + 1 }

section
variable (s : State) (evs : List Event)

@[simp] theorem State.accessed_cfg : (s.accessed evs).cfg = s.cfg := rfl
@[simp] theorem State.accessed_fs : (s.accessed evs).fs = s.fs := rfl
@[simp] theorem State.accessed_initOk : (s.accessed evs).initOk = s.initOk := rfl
@[simp] theorem State.accessed_csLevel : (s.accessed evs).csLevel = s.restLevel := rfl
@[simp] theorem State.accessed_activity : (s.accessed evs).activity = s.activity := rfl
@[simp] theorem State.accessed_resp : (s.accessed evs).resp = s.resp := rfl
@[simp] theorem State.accessed_trace : (s.accessed evs).trace = s.trace ++ evs := rfl
@[simp] theorem State.accessed_inbox : (s.accessed evs).inbox = s.inbox := rfl
@[simp] theorem State.accessed_oracle : (s.accessed evs).oracle = s.oracle.drop 1 := rfl
@[simp] theorem State.accessed_calls : (s.accessed evs).calls = s.calls + 1 := rfl

end

@[simp] theorem State.accessed_answerAt (s : State) (evs : List Event) (k : Nat) :
    (s.accessed evs).answerAt k = s.answerAt (k + 1) := s.drawn_answerAt k

/-- An access leaves the line where the next one would (rule R99). -/
@[simp] theorem State.accessed_restLevel (s : State) (evs : List Event) : (s.accessed evs).restLevel = s.restLevel := by
  cases hb : s.cfg.bus <;> simp [State.restLevel, hb]

/-- On SPI the line is low in a call whatever came before it; on I2C it keeps its value. -/
@[simp] theorem State.accessed_callLevel (s : State) (evs : List Event) : (s.accessed evs).callLevel = s.callLevel := by
  cases hb : s.cfg.bus <;> simp [State.callLevel, State.restLevel, hb]

section
variable (s : State) (c : Call)

@[simp] theorem State.stuckIn_cfg : (s.stuckIn c).cfg = s.cfg := rfl
@[simp] theorem State.stuckIn_fs : (s.stuckIn c).fs = s.fs := rfl
@[simp] theorem State.stuckIn_initOk : (s.stuckIn c).initOk = s.initOk := rfl
@[simp] theorem State.stuckIn_csLevel : (s.stuckIn c).csLevel = s.callLevel := rfl
@[simp] theorem State.stuckIn_activity : (s.stuckIn c).activity = .waiting c := rfl
@[simp] theorem State.stuckIn_resp : (s.stuckIn c).resp = s.resp := rfl
@[simp] theorem State.stuckIn_trace : (s.stuckIn c).trace = s.trace ++ openEvents s.cfg := rfl
@[simp] theorem State.stuckIn_inbox : (s.stuckIn c).inbox = s.inbox := rfl

end

/-- The outcome of a framed access, by the answer it gets: completed, failed or never returned. -/
def accessOutcome (call : Call) (n : Nat) (s : State) : Run Bytes6 :=
  match s.answerAt 0 with
  | .ok b => .ok b (s.accessed (frameEvents s.cfg call (.ok ((bytesList b).take n))))
  | .fail => .raised .transport (s.accessed (frameEvents s.cfg call .fail))
  | .never => .hung (s.stuckIn call)

/-- `MemRead` makes the one call of rule R90's table and ends in one of the three outcomes (rules R92 to R94, R98). -/
theorem memRead_eq (r : Byte) (n : Nat) (s : State) : memRead r n s = accessOutcome (readCall s.cfg r n) n s := by
  unfold memRead accessOutcome
  cases hb : s.cfg.bus <;>
    simp only [memReadSpi, memReadI2c, bracket, transportCall, State.drive_answerAt, readCall, hb, frameEvents] <;>
    cases s.answerAt 0 <;>
    simp [State.accessed, State.stuckIn, State.restLevel, State.callLevel, State.drive, State.emit, State.drawn,
      State.block, levelEvent, openEvents, hb]

/-- `MemWrite` makes the one call of rule R90's table and keeps no reply byte (rules R95, R96, R98). -/
theorem memWrite_eq (r b : Byte) (s : State) :
    memWrite r b s = (accessOutcome (writeCall s.cfg r b) 0 s).andThen fun _ t => .ok () t := by
  unfold memWrite accessOutcome
  cases hb : s.cfg.bus <;>
    simp only [memWriteSpi, memWriteI2c, bracket, transportCall, State.drive_answerAt, writeCall, hb, frameEvents] <;>
    cases s.answerAt 0 <;>
    simp [State.accessed, State.stuckIn, State.restLevel, State.callLevel, State.drive, State.emit, State.drawn,
      State.block, levelEvent, openEvents, hb]

section
variable {s : State} {b : Bytes6} (r : Byte) (n : Nat) (v : Byte)

theorem memRead_of_ok (h : s.answerAt 0 = .ok b) : memRead r n s = .ok b (s.accessed (readOk s.cfg r n b)) := by
  simp [memRead_eq, accessOutcome, h, readOk]

theorem memRead_of_fail (h : s.answerAt 0 = .fail) :
    memRead r n s = .raised .transport (s.accessed (readFail s.cfg r n)) := by
  simp [memRead_eq, accessOutcome, h, readFail]

theorem memRead_of_never (h : s.answerAt 0 = .never) : memRead r n s = .hung (s.stuckIn (readCall s.cfg r n)) := by
  simp [memRead_eq, accessOutcome, h]

theorem memWrite_of_ok (h : s.answerAt 0 = .ok b) : memWrite r v s = .ok () (s.accessed (writeOk s.cfg r v)) := by
  simp [memWrite_eq, accessOutcome, h, writeOk]

theorem memWrite_of_fail (h : s.answerAt 0 = .fail) :
    memWrite r v s = .raised .transport (s.accessed (writeFail s.cfg r v)) := by
  simp [memWrite_eq, accessOutcome, h, writeFail]

theorem memWrite_of_never (h : s.answerAt 0 = .never) : memWrite r v s = .hung (s.stuckIn (writeCall s.cfg r v)) := by
  simp [memWrite_eq, accessOutcome, h]

end

/-- A framed read that returned `Ok` replies with the bytes it asked for. -/
@[simp] theorem replyTo_readCall (c : Cfg) (r : Byte) (n : Nat) (b : Bytes6) :
    replyTo b (readCall c r n) = (bytesList b).take n := by
  cases hb : c.bus <;> simp [readCall, replyTo, hb]

@[simp] theorem replyTo_writeCall (c : Cfg) (r v : Byte) (b : Bytes6) : replyTo b (writeCall c r v) = [] := by
  cases hb : c.bus <;> simp [writeCall, replyTo, hb]

/-- A first call that never returns, of a command that was accepted. -/
theorem State.stuckIn_eq_hungIn {s : State} (h : s.resp = none) (c : Call) : s.stuckIn c = s.hungIn 0 [] c := by
  simp [State.stuckIn, State.hungIn, h]

/-! ### The read-modify-write (rules R110, R116), by the answers to its two calls -/

section
variable {s : State} {b b' : Bytes6} (reg mask : Byte) (pos : Nat) (val : Byte)

theorem setField_of_ok (h0 : s.answerAt 0 = .ok b) (h1 : s.answerAt 1 = .ok b') :
    setField reg mask pos val s = .ok () ((s.accessed (readOk s.cfg reg 1 b)).accessed
      (writeOk s.cfg reg (insertField b.b0 mask pos val))) := by
  simp [setField, memRead_of_ok reg 1 h0, memWrite_of_ok (s := s.accessed _) reg _ (s.accessed_answerAt _ 0 ▸ h1)]

theorem setField_of_read_fail (h0 : s.answerAt 0 = .fail) :
    setField reg mask pos val s = .raised .transport (s.accessed (readFail s.cfg reg 1)) := by
  simp [setField, memRead_of_fail reg 1 h0]

theorem setField_of_write_fail (h0 : s.answerAt 0 = .ok b) (h1 : s.answerAt 1 = .fail) :
    setField reg mask pos val s = .raised .transport ((s.accessed (readOk s.cfg reg 1 b)).accessed
      (writeFail s.cfg reg (insertField b.b0 mask pos val))) := by
  simp [setField, memRead_of_ok reg 1 h0, memWrite_of_fail (s := s.accessed _) reg _ (s.accessed_answerAt _ 0 ▸ h1)]

theorem setField_of_read_never (h0 : s.answerAt 0 = .never) :
    setField reg mask pos val s = .hung (s.stuckIn (readCall s.cfg reg 1)) := by
  simp [setField, memRead_of_never reg 1 h0]

theorem setField_of_write_never (h0 : s.answerAt 0 = .ok b) (h1 : s.answerAt 1 = .never) :
    setField reg mask pos val s = .hung ((s.accessed (readOk s.cfg reg 1 b)).stuckIn
      (writeCall s.cfg reg (insertField b.b0 mask pos val))) := by
  simp [setField, memRead_of_ok reg 1 h0, memWrite_of_never (s := s.accessed _) reg _ (s.accessed_answerAt _ 0 ▸ h1)]

end

/-! ### The identity check (rule R114), by the answer to its call and the byte read -/

section
variable {s : State} {b : Bytes6}

theorem verifyStep_of_match (h0 : s.answerAt 0 = .ok b) (hid : b.b0 = idExpect) :
    verifyStep s = .ok () (s.accessed (readOk s.cfg regId 1 b)) := by
  simp [verifyStep, memRead_of_ok regId 1 h0, hid]

theorem verifyStep_of_mismatch (h0 : s.answerAt 0 = .ok b) (hid : b.b0 ≠ idExpect) :
    verifyStep s = .raised .deviceMismatch (s.accessed (readOk s.cfg regId 1 b)) := by
  simp [verifyStep, memRead_of_ok regId 1 h0, hid]

theorem verifyStep_of_fail (h0 : s.answerAt 0 = .fail) :
    verifyStep s = .raised .transport (s.accessed (readFail s.cfg regId 1)) := by
  simp [verifyStep, memRead_of_fail regId 1 h0]

theorem verifyStep_of_never (h0 : s.answerAt 0 = .never) :
    verifyStep s = .hung (s.stuckIn (readCall s.cfg regId 1)) := by
  simp [verifyStep, memRead_of_never regId 1 h0]

end

/-! ### Admission -/

theorem runCommand_of_refused {i : Instr} {s : State} {st : Status} (body : State → Run Resp)
    (h : admission i s = some st) : runCommand i s body = .next (s.refuse st) := by
  simp [runCommand, h]

theorem runCommand_of_admitted {i : Instr} {s : State} (body : State → Run Resp) (h : admission i s = none) :
    runCommand i s body = .next (body s.accept).finish := by
  simp [runCommand, h]

/-- What `admission` lets through (rule R174): legal operands, a supported variant, a ready block. -/
theorem admit_eq_none_iff (i : Instr) (s : State) :
    admission i s = none ↔
      checkOperands s.cfg.bus i = none ∧ unsupported s.cfg.bus i = false ∧ (needsReady i = true → s.initOk = true) := by
  unfold admission
  cases h1 : checkOperands s.cfg.bus i <;> cases h2 : unsupported s.cfg.bus i <;> cases h3 : needsReady i <;>
    cases h4 : s.initOk <;> simp

/-- Every outcome of a command, by what its step list does after admission. -/
theorem runCommand_cases (i : Instr) (s : State) (body : State → Run Resp) :
    (∃ st, admission i s = some st ∧ runCommand i s body = .next (s.refuse st)) ∨
    (admission i s = none ∧ runCommand i s body = .next (body s.accept).finish) := by
  cases h : admission i s with
  | some st => exact .inl ⟨st, rfl, runCommand_of_refused body h⟩
  | none => exact .inr ⟨rfl, runCommand_of_admitted body h⟩

end Sys2Proof.Machine
end

