-- ==== Sys2Proof/Laws/Trail.lean ====
section
/-! SUPPORT. What a step list can do, said once: the framed accesses it made (`Trail`), and the four ways it can end
(`Ran`). Each step of a command has one lemma, and steps compose by `Ran.andThen`. -/

namespace Sys2Proof.Machine

/-- A transport call that returned, with its result. -/
abbrev Access := Call × CallResult

/-- The call returned `Ok`. -/
def Access.succeeded (p : Access) : Prop := p.2 ≠ .fail

/-- The events of accesses, in order. -/
def accessEvents (c : Cfg) (ps : List Access) : List Event := ps.flatMap fun p => frameEvents c p.1 p.2

/-- A call with a frame that the bus of `c` allows. -/
def frameFits (c : Cfg) (call : Call) : Prop :=
  match c.bus with
  | .spi => call.spiFrame = true
  | .i2c => call.i2cFrame c.devAddr = true

/-- `t` is `s` after the accesses `ps`, but for `FS` and `INIT_OK`. -/
structure Trail (s t : State) (ps : List Access) : Prop where
  cfg : t.cfg = s.cfg
  inbox : t.inbox = s.inbox
  activity : t.activity = s.activity
  resp : t.resp = s.resp
  trace : t.trace = s.trace ++ accessEvents s.cfg ps
  oracle : t.oracle = s.oracle.drop ps.length
  calls : t.calls = s.calls + ps.length
  csLevel : t.csLevel = if ps = [] then s.csLevel else s.restLevel
  fits : ∀ p ∈ ps, frameFits s.cfg p.1 ∧ replyFits p.1 p.2 = true

theorem Trail.refl (s : State) : Trail s s [] where
  cfg := rfl
  inbox := rfl
  activity := rfl
  resp := rfl
  trace := by simp [accessEvents]
  oracle := rfl
  calls := rfl
  csLevel := rfl
  fits := by simp

/-- The rest level depends on the configuration and, on I2C, on the level, which no access changes. -/
theorem Trail.restLevel_eq {s t : State} {ps : List Access} (h : Trail s t ps) : t.restLevel = s.restLevel := by
  unfold State.restLevel
  rw [h.cfg, h.csLevel]
  cases hb : s.cfg.bus <;> simp [State.restLevel, hb]

theorem Trail.trans {s t u : State} {ps qs : List Access} (h : Trail s t ps) (k : Trail t u qs) :
    Trail s u (ps ++ qs) where
  cfg := k.cfg.trans h.cfg
  inbox := k.inbox.trans h.inbox
  activity := k.activity.trans h.activity
  resp := k.resp.trans h.resp
  trace := by rw [k.trace, h.trace, h.cfg]; simp [accessEvents]
  oracle := by rw [k.oracle, h.oracle]; simp
  calls := by rw [k.calls, h.calls]; simp [Nat.add_assoc]
  csLevel := by
    rw [k.csLevel, h.restLevel_eq, h.csLevel]
    by_cases ps = [] <;> by_cases qs = [] <;> simp_all
  fits := by
    intro p hp
    rcases List.mem_append.1 hp with hp | hp
    · exact h.fits p hp
    · rw [← h.cfg]
      exact k.fits p hp

theorem Trail.single (s : State) (call : Call) (res : CallResult) (h : frameFits s.cfg call)
    (hr : replyFits call res = true) : Trail s (s.accessed (frameEvents s.cfg call res)) [(call, res)] where
  cfg := rfl
  inbox := rfl
  activity := rfl
  resp := rfl
  trace := by simp [accessEvents]
  oracle := rfl
  calls := rfl
  csLevel := rfl
  fits := by simp [h, hr]

/-- A state that differs from `t` in `FS` and `INIT_OK` alone has the same trail. -/
theorem Trail.of_flags {s t : State} {ps : List Access} (h : Trail s t ps) (f : FsCode) (b : Bool) :
    Trail s { t with fs := f, initOk := b } ps :=
  ⟨h.cfg, h.inbox, h.activity, h.resp, h.trace, h.oracle, h.calls, h.csLevel, h.fits⟩

/-- How a step list from `s` can end: it completed, with every access successful and `P`; an access failed, which was the
last (rule R176); the identity byte was wrong; or a call never returned. `FS` and `INIT_OK` are then as in `s`. -/
inductive Ran {α : Type} (s : State) (P : α → State → List Access → Prop) : Run α → Prop
  | completed {a : α} {t : State} {ps : List Access} :
      Trail s t ps → (∀ p ∈ ps, p.succeeded) → P a t ps → Ran s P (.ok a t)
  | failed {t : State} {ps : List Access} {q : Access} :
      Trail s t (ps ++ [q]) → (∀ p ∈ ps, p.succeeded) → ¬ q.succeeded → t.fs = s.fs → t.initOk = s.initOk →
      Ran s P (.raised .transport t)
  | mismatched {t : State} {ps : List Access} :
      Trail s t ps → (∀ p ∈ ps, p.succeeded) → t.fs = s.fs → t.initOk = s.initOk →
      Ran s P (.raised .deviceMismatch t)
  | hung {t : State} {ps : List Access} {c : Call} :
      Trail s t ps → (∀ p ∈ ps, p.succeeded) → frameFits s.cfg c → t.fs = s.fs → t.initOk = s.initOk →
      Ran s P (.hung (t.stuckIn c))

theorem forall_mem_append {α : Type} {P : α → Prop} {as bs : List α} (ha : ∀ a ∈ as, P a) (hb : ∀ b ∈ bs, P b) :
    ∀ c ∈ as ++ bs, P c := fun c hc => (List.mem_append.1 hc).elim (ha c) (hb c)

/-- Steps compose: the second starts where the first completed, with `FS` and `INIT_OK` kept by the first. -/
theorem Ran.andThen {α β : Type} {s : State} {P : α → State → List Access → Prop}
    {Q : β → State → List Access → Prop} {r : Run α} {f : α → State → Run β} (h : Ran s P r)
    (keeps : ∀ a t ps, P a t ps → t.fs = s.fs ∧ t.initOk = s.initOk)
    (next : ∀ a t ps, Trail s t ps → P a t ps → Ran t (fun b u qs => Q b u (ps ++ qs)) (f a t)) :
    Ran s Q (r.andThen f) := by
  cases h with
  | @completed a t ps h1 h2 h3 =>
    obtain ⟨e1, e2⟩ := keeps _ _ _ h3
    have hn := next a t ps h1 h3
    simp only [Run.ok_andThen]
    generalize f a t = r' at *
    cases hn with
    | completed k1 k2 k3 => exact .completed (h1.trans k1) (forall_mem_append h2 k2) k3
    | failed k1 k2 k3 k4 k5 =>
      exact .failed (by simpa using h1.trans k1) (forall_mem_append h2 k2) k3 (k4.trans e1) (k5.trans e2)
    | mismatched k1 k2 k3 k4 =>
      exact .mismatched (h1.trans k1) (forall_mem_append h2 k2) (k3.trans e1) (k4.trans e2)
    | hung k1 k2 k3 k4 k5 =>
      exact .hung (h1.trans k1) (forall_mem_append h2 k2) (h1.cfg ▸ k3) (k4.trans e1) (k5.trans e2)
  | failed h1 h2 h3 h4 h5 => exact .failed h1 h2 h3 h4 h5
  | mismatched h1 h2 h3 h4 => exact .mismatched h1 h2 h3 h4
  | hung h1 h2 h3 h4 h5 => exact .hung h1 h2 h3 h4 h5

theorem Ran.mono {α : Type} {s : State} {P Q : α → State → List Access → Prop} {r : Run α} (h : Ran s P r)
    (hPQ : ∀ a t ps, P a t ps → Q a t ps) : Ran s Q r := by
  cases h with
  | completed h1 h2 h3 => exact .completed h1 h2 (hPQ _ _ _ h3)
  | failed h1 h2 h3 h4 h5 => exact .failed h1 h2 h3 h4 h5
  | mismatched h1 h2 h3 h4 => exact .mismatched h1 h2 h3 h4
  | hung h1 h2 h3 h4 h5 => exact .hung h1 h2 h3 h4 h5

/-- `respond(OK)` after a step list answers the bare `OK` response. -/
theorem Ran.respondOk {s : State} {Q : State → List Access → Prop} {r : Run Unit} (h : Ran s (fun _ t ps => Q t ps) r) :
    Ran s (fun p t ps => p = bareResp .ok ∧ Q t ps) (respondOk r) := by
  cases h with
  | completed h1 h2 h3 => exact .completed h1 h2 ⟨rfl, h3⟩
  | failed h1 h2 h3 h4 h5 => exact .failed h1 h2 h3 h4 h5
  | mismatched h1 h2 h3 h4 => exact .mismatched h1 h2 h3 h4
  | hung h1 h2 h3 h4 h5 => exact .hung h1 h2 h3 h4 h5

/-! ### The steps -/

/-- A framed read has a legal frame and a reply of the length it asks for (rules R9, R74, R76). -/
theorem readCall_fits (c : Cfg) (r : Byte) (n : Nat) (h1 : 1 ≤ n) (h6 : n ≤ 6) :
    frameFits c (readCall c r n) ∧
      ∀ b, replyFits (readCall c r n) (.ok ((bytesList b).take n)) = true := by
  cases hb : c.bus <;>
    simp [frameFits, readCall, hb, Call.spiFrame, Call.i2cFrame, h1, h6, replyFits, bytesList, spiCmd, bitByte]
  by_cases h : 1 < n <;> simp [h]

/-- A framed write has a legal frame and no reply (rules R75, R77). -/
theorem writeCall_fits (c : Cfg) (r v : Byte) :
    frameFits c (writeCall c r v) ∧
      ∀ b, replyFits (writeCall c r v) (.ok ((bytesList b).take 0)) = true := by
  cases hb : c.bus <;>
    simp [frameFits, writeCall, hb, Call.spiFrame, Call.i2cFrame, replyFits, bytesList, spiCmd, bitByte]
  have := Nat.and_le_right (n := BitVec.toNat r) (m := 63)
  omega

theorem accessOutcome_ran (s : State) (call : Call) (n : Nat) (h : frameFits s.cfg call)
    (hr : ∀ b, replyFits call (.ok ((bytesList b).take n)) = true) :
    Ran s (fun b t ps => ps = [(call, .ok ((bytesList b).take n))] ∧ t.fs = s.fs ∧ t.initOk = s.initOk)
      (accessOutcome call n s) := by
  unfold accessOutcome
  cases s.answerAt 0 with
  | ok b => exact .completed (.single s call _ h (hr b)) (by simp [Access.succeeded]) ⟨rfl, rfl, rfl⟩
  | fail =>
    exact .failed (ps := []) (.single s call _ h (by cases call <;> rfl)) (by simp) (by simp [Access.succeeded]) rfl rfl
  | never => exact .hung (.refl s) (by simp) h rfl rfl

theorem memRead_ran (s : State) (r : Byte) (n : Nat) (h1 : 1 ≤ n) (h6 : n ≤ 6) :
    Ran s (fun b t ps => ps = [(readCall s.cfg r n, .ok ((bytesList b).take n))] ∧ t.fs = s.fs ∧ t.initOk = s.initOk)
      (memRead r n s) := by
  obtain ⟨hf, hr⟩ := readCall_fits s.cfg r n h1 h6
  rw [memRead_eq]
  exact accessOutcome_ran s _ n hf hr

theorem memWrite_ran (s : State) (r v : Byte) :
    Ran s (fun _ t ps => ps = [(writeCall s.cfg r v, .ok [])] ∧ t.fs = s.fs ∧ t.initOk = s.initOk)
      (memWrite r v s) := by
  obtain ⟨hf, hr⟩ := writeCall_fits s.cfg r v
  rw [memWrite_eq]
  refine (accessOutcome_ran s _ 0 hf hr).andThen (fun _ _ _ h => h.2) ?_
  rintro a t ps - ⟨rfl, h⟩
  exact .completed (.refl t) (by simp) ⟨rfl, h⟩

theorem setField_ran (s : State) (r m : Byte) (p : Nat) (v : Byte) :
    Ran s (fun _ t ps => ps.length = 2 ∧ t.fs = s.fs ∧ t.initOk = s.initOk) (setField r m p v s) := by
  refine (memRead_ran s r 1 (by decide) (by decide)).andThen (fun _ _ _ h => h.2) ?_
  rintro a t ps - ⟨rfl, h1, h2⟩
  refine (memWrite_ran t _ _).mono ?_
  rintro _ u qs ⟨rfl, k1, k2⟩
  exact ⟨rfl, k1.trans h1, k2.trans h2⟩

theorem verifyStep_ran (s : State) :
    Ran s (fun _ t ps => ps = [(readCall s.cfg regId 1, .ok [idExpect])] ∧ t.fs = s.fs ∧ t.initOk = s.initOk)
      (verifyStep s) := by
  refine (memRead_ran s regId 1 (by decide) (by decide)).andThen (fun _ _ _ h => h.2) ?_
  rintro b t ps - ⟨rfl, h1, h2⟩
  by_cases hid : b.b0 = idExpect
  · rw [if_pos hid]
    exact .completed (.refl t) (by simp) ⟨by simp [bytesList, hid], h1, h2⟩
  · rw [if_neg hid]
    exact .mismatched (.refl t) (by simp) rfl rfl

theorem setFsStep_ran (s : State) (f : FsCode) :
    Ran s (fun _ t ps => ps.length = 2 ∧ t.fs = f ∧ t.initOk = s.initOk) (setFsStep f s) := by
  refine (setField_ran s _ _ _ _).andThen (fun _ _ _ h => h.2) ?_
  rintro a t ps - ⟨h0, -, h2⟩
  exact .completed ((Trail.refl t).of_flags f t.initOk) (by simp) ⟨by simpa using h0, rfl, h2⟩

theorem forceFourWireStep_ran (s : State) :
    Ran s (fun _ t ps => ps.length = (match s.cfg.bus with | .i2c => 0 | .spi => 2) ∧ t.fs = s.fs ∧
      t.initOk = s.initOk) (forceFourWireStep s) := by
  unfold forceFourWireStep setSpi4Step
  cases s.cfg.bus
  · exact .completed (.refl s) (by simp) ⟨rfl, rfl, rfl⟩
  · exact setField_ran s _ _ _ _

/-- `INIT` from the state in which it has cleared `INIT_OK`. -/
theorem initSteps_ran (s : State) (f : FsCode) (h0 : s.initOk = false) :
    Ran s (fun _ t ps => ps.length = callCount s.cfg.bus (.init f) ∧ t.fs = f ∧ t.initOk = true ∧
      (readCall s.cfg regId 1, .ok [idExpect]) ∈ ps) (initSteps f s) := by
  have hs : s.setInitOk false = s := by
    cases s
    simp_all [State.setInitOk]
  unfold initSteps
  rw [hs]
  refine (forceFourWireStep_ran s).andThen (fun _ _ _ h => h.2) ?_
  rintro - t ps T ⟨l1, e1, e1'⟩
  refine (verifyStep_ran t).andThen (fun _ _ _ h => h.2) ?_
  rintro - u qs - ⟨rfl, e2, e2'⟩
  refine (setField_ran u _ _ _ _).andThen (fun _ _ _ h => h.2) ?_
  rintro - v rs - ⟨l3, e3, e3'⟩
  have last := setFsStep_ran v f
  generalize setFsStep f v = r at *
  cases last with
  | completed k1 k2 k3 =>
    refine .completed (k1.of_flags _ true) k2 ⟨?_, k3.2.1, rfl, ?_⟩
    · simp only [List.length_append, l1, l3, k3.1, callCount, List.length_singleton]
      cases s.cfg.bus <;> rfl
    · simp [T.cfg]
  | failed k1 k2 k3 k4 k5 => exact .failed k1 k2 k3 k4 k5
  | mismatched k1 k2 k3 k4 => exact .mismatched k1 k2 k3 k4
  | hung k1 k2 k3 k4 k5 => exact .hung k1 k2 k3 k4 k5

end Sys2Proof.Machine
end

