-- ==== Sys2Proof/Laws/Exec.lean ====
section
/-! SUPPORT. What `exec` can do, said once for all commands (`exec_cases`): it is refused, completes, fails at an access, finds
a wrong identity, or never ends. -/

namespace Sys2Proof.Machine

/-- The step list of a command, to the response, after admission. -/
def stepList (i : Instr) : State → Run Resp :=
  match i with
  | .rdreg reg len => fun t => (memRead reg len.toNat t).andThen fun rx u => .ok (readResp len rx) u
  | .wrreg reg data => fun t => respondOk (memWrite reg data t)
  | .verify => fun t => respondOk (verifyStep t)
  | .setrate mode => fun t => respondOk (setRateStep mode t)
  | .pwron => fun t => respondOk (setRateStep rateOn t)
  | .pwroff => fun t => respondOk (setRateStep rateOff t)
  | .setfs fs => fun t => respondOk (setFsStep fs t)
  | .setspi _ => fun t => respondOk (setSpi4Step t)
  | .init fs => fun t => respondOk (initSteps fs t)
  | .sample => fun t =>
    (memRead regOutXL burstLen t).andThen fun rx u => .ok (sampleResp u.cfg.frac.val u.fs rx) u

theorem exec_eq_runCommand (i : Instr) (s : State) : exec i s = runCommand i s (stepList i) := by cases i <;> rfl

theorem exec_of_refused {i : Instr} {s : State} {st : Status} (h : admission i s = some st) :
    exec i s = .next (s.refusedWith st) := by
  rw [exec_eq_runCommand, runCommand_of_refused _ h]
  rfl

theorem exec_of_admitted {i : Instr} {s : State} (h : admission i s = none) :
    exec i s = .next (stepList i s.accept).finish := by
  rw [exec_eq_runCommand, runCommand_of_admitted _ h]

theorem admit_eq_none {i : Instr} {s : State} (hw : i.wellFormed s.cfg.bus = true)
    (hu : unsupported s.cfg.bus i = false) (hr : needsReady i = true → s.initOk = true) : admission i s = none :=
  (admit_eq_none_iff i s).2 ⟨(checkOperands_eq_none_iff _ _).2 hw, hu, hr⟩

/-- Admission refuses with one of the three statuses of rule R174, and never an `INIT`. -/
theorem admission_status {i : Instr} {s : State} {st : Status} (h : admission i s = some st) :
    (st = .badCommand ∨ st = .unsupported ∨ st = .notReady) ∧ ∀ f, i ≠ .init f := by
  constructor
  · unfold admission at h
    (repeat' split at h) <;> simp at h <;> simp [← h]
  · rintro f rfl
    simp [admission, checkOperands, unsupported, needsReady] at h

theorem keepBytes_keepBytes (n : Nat) (b : Bytes6) : keepBytes n (keepBytes n b) = keepBytes n b := by
  simp only [keepBytes]
  congr 1 <;> split <;> rfl

theorem bareResp_inOrder (st : Status) : (bareResp st).inOrder :=
  ⟨fun _ => rfl, by simp [bareResp], by simp [bareResp, keepBytes]⟩

/-- The state in which the accesses of a command start: accepted, and for `INIT` with `INIT_OK` cleared. -/
def startOf (i : Instr) (s : State) : State :=
  match i with
  | .init _ => s.accept.setInitOk false
  | .rdreg _ _ | .wrreg _ _ | .verify | .setrate _ | .pwron | .pwroff | .setfs _ | .setspi _ | .sample => s.accept

section
variable (i : Instr) (s : State)

@[simp] theorem startOf_cfg : (startOf i s).cfg = s.cfg := by cases i <;> rfl
@[simp] theorem startOf_fs : (startOf i s).fs = s.fs := by cases i <;> rfl
@[simp] theorem startOf_csLevel : (startOf i s).csLevel = s.csLevel := by cases i <;> rfl
@[simp] theorem startOf_activity : (startOf i s).activity = s.activity := by cases i <;> rfl
@[simp] theorem startOf_resp : (startOf i s).resp = none := by cases i <;> rfl
@[simp] theorem startOf_trace : (startOf i s).trace = s.trace := by cases i <;> rfl
@[simp] theorem startOf_inbox : (startOf i s).inbox = s.inbox := by cases i <;> rfl
@[simp] theorem startOf_oracle : (startOf i s).oracle = s.oracle := by cases i <;> rfl
@[simp] theorem startOf_calls : (startOf i s).calls = s.calls := by cases i <;> rfl

end

@[simp] theorem startOf_init_initOk (f : FsCode) (s : State) : (startOf (.init f) s).initOk = false := rfl

theorem startOf_initOk {i : Instr} (s : State) (h : ∀ f, i ≠ .init f) : (startOf i s).initOk = s.initOk := by
  cases i <;> first | rfl | exact absurd rfl (h _)

/-- `FS` after a command that ended `OK` (rule R21). -/
def okFs (i : Instr) (s : State) : FsCode :=
  match i with
  | .init f | .setfs f => f
  | .rdreg _ _ | .wrreg _ _ | .verify | .setrate _ | .pwron | .pwroff | .setspi _ | .sample => s.fs

/-- `INIT_OK` after a command that ended `OK` (rule R22). -/
def okInit (i : Instr) (s : State) : Bool :=
  match i with
  | .init _ => true
  | .rdreg _ _ | .wrreg _ _ | .verify | .setrate _ | .pwron | .pwroff | .setfs _ | .setspi _ | .sample => s.initOk

/-- What a command that ended `OK` leaves: `u` is the state before its response `r`. -/
structure EndedOk (i : Instr) (s u : State) (ps : List Access) (r : Resp) : Prop where
  status : r.status = .ok
  inOrder : r.inOrder
  count : ps.length = callCount s.cfg.bus i
  fs : u.fs = okFs i s
  initOk : u.initOk = okInit i s
  identity : ∀ f, i = .init f → (readCall s.cfg regId 1, .ok [idExpect]) ∈ ps
  scaled : i = .sample → r.fs = s.fs ∧ r.acc = scaleAxes s.cfg.frac.val s.fs r.raw

theorem stepList_ran (i : Instr) (s : State) (ha : admission i s = none) :
    Ran (startOf i s) (fun r t ps => EndedOk i s t ps r) (stepList i s.accept) := by
  have bare : ∀ {t ps}, ps.length = callCount s.cfg.bus i → t.fs = okFs i s → t.initOk = okInit i s →
      (∀ f, i = .init f → (readCall s.cfg regId 1, .ok [idExpect]) ∈ ps) → i ≠ .sample →
      EndedOk i s t ps (bareResp .ok) := fun h1 h2 h3 h4 h5 =>
    ⟨rfl, bareResp_inOrder .ok, h1, h2, h3, h4, fun h => absurd h h5⟩
  have field : ∀ {r m p v}, callCount s.cfg.bus i = 2 → okFs i s = s.fs → okInit i s = s.initOk →
      (∀ f, i ≠ .init f) → i ≠ .sample →
      Ran s.accept (fun q t ps => EndedOk i s t ps q) (respondOk (setField r m p v s.accept)) := by
    intro r m p v h1 h2 h3 h4 h5
    refine (setField_ran s.accept r m p v).respondOk.mono ?_
    rintro q t ps ⟨rfl, k1, k2, k3⟩
    exact bare (k1.trans h1.symm) (k2.trans h2.symm) (k3.trans h3.symm) (fun f hf => absurd hf (h4 f)) h5
  cases i with
  | rdreg reg len =>
    have hw := (checkOperands_eq_none_iff _ _).1 ((admit_eq_none_iff _ _).1 ha).1
    simp only [Instr.wellFormed, Bool.and_eq_true, decide_eq_true_eq] at hw
    refine (memRead_ran s.accept reg len.toNat hw.1.1 hw.1.2).andThen (fun _ _ _ h => h.2) ?_
    rintro b t ps - ⟨rfl, h1, h2⟩
    have hl : (len.setWidth 3).toNat = len.toNat := by
      simp
      omega
    refine .completed (.refl t) (by simp) ⟨rfl, ⟨fun h => absurd rfl h, ?_, ?_⟩, rfl, h1, h2, by simp, by simp⟩
    · simp only [readResp, hl, hw.1.2]
    · simp only [readResp, hl, keepBytes_keepBytes]
  | wrreg reg data =>
    refine (memWrite_ran s.accept reg data).respondOk.mono ?_
    rintro q t ps ⟨rfl, rfl, h1, h2⟩
    exact bare rfl h1 h2 (by simp) (by simp)
  | verify =>
    refine (verifyStep_ran s.accept).respondOk.mono ?_
    rintro q t ps ⟨rfl, rfl, h1, h2⟩
    exact bare rfl h1 h2 (by simp) (by simp)
  | setrate mode => exact field rfl rfl rfl (by simp) (by simp)
  | pwron => exact field rfl rfl rfl (by simp) (by simp)
  | pwroff => exact field rfl rfl rfl (by simp) (by simp)
  | setspi mode => exact field rfl rfl rfl (by simp) (by simp)
  | setfs f =>
    refine (setFsStep_ran s.accept f).respondOk.mono ?_
    rintro q t ps ⟨rfl, h0, h1, h2⟩
    exact bare h0 h1 h2 (by simp) (by simp)
  | init f =>
    have hl : stepList (.init f) s.accept = respondOk (initSteps f (s.accept.setInitOk false)) := rfl
    rw [hl]
    refine (initSteps_ran (s.accept.setInitOk false) f rfl).respondOk.mono ?_
    rintro q t ps ⟨rfl, h0, h1, h2, h3⟩
    exact bare h0 h1 h2 (fun _ _ => h3) (by simp)
  | sample =>
    refine (memRead_ran s.accept regOutXL burstLen (by decide) (by decide)).andThen (fun _ _ _ h => h.2) ?_
    rintro b t ps T ⟨rfl, h1, h2⟩
    refine .completed (.refl t) (by simp)
      ⟨rfl, ⟨fun h => absurd rfl h, by simp [sampleResp, bareResp], ?_⟩, rfl, h1, h2, by simp, fun _ => ⟨h1, ?_⟩⟩
    · simp [sampleResp, bareResp, keepBytes]
    · simp only [sampleResp, T.cfg, h1]
      rfl

/-- Everything a command can do. -/
theorem exec_cases {i : Instr} {s t : State} (h : exec i s = .next t) :
    (∃ st, (st = .badCommand ∨ st = .unsupported ∨ st = .notReady) ∧ (∀ f, i ≠ .init f) ∧ t = s.refusedWith st) ∨
    (∃ u ps r, Trail (startOf i s) u ps ∧ (∀ p ∈ ps, p.succeeded) ∧ EndedOk i s u ps r ∧ t = u.respond r) ∨
    (∃ u ps q, Trail (startOf i s) u (ps ++ [q]) ∧ (∀ p ∈ ps, p.succeeded) ∧ ¬ q.succeeded ∧ u.fs = s.fs ∧
      u.initOk = (startOf i s).initOk ∧ t = u.respond (bareResp .transport)) ∨
    (∃ u ps, Trail (startOf i s) u ps ∧ (∀ p ∈ ps, p.succeeded) ∧ u.fs = s.fs ∧
      u.initOk = (startOf i s).initOk ∧ t = u.respond (bareResp .deviceMismatch)) ∨
    (∃ u ps c, Trail (startOf i s) u ps ∧ (∀ p ∈ ps, p.succeeded) ∧ frameFits s.cfg c ∧ u.fs = s.fs ∧
      u.initOk = (startOf i s).initOk ∧ t = u.stuckIn c) := by
  cases ha : admission i s with
  | some st =>
    rw [exec_of_refused ha] at h
    cases h
    obtain ⟨hst, hni⟩ := admission_status ha
    exact .inl ⟨st, hst, hni, rfl⟩
  | none =>
    rw [exec_of_admitted ha] at h
    have hr := stepList_ran i s ha
    generalize stepList i s.accept = r at *
    cases h
    refine .inr ?_
    cases hr with
    | completed k1 k2 k3 => exact .inl ⟨_, _, _, k1, k2, k3, rfl⟩
    | failed k1 k2 k3 k4 k5 =>
      exact .inr (.inl ⟨_, _, _, k1, k2, k3, k4.trans (startOf_fs i s), k5, rfl⟩)
    | mismatched k1 k2 k3 k4 => exact .inr (.inr (.inl ⟨_, _, k1, k2, k3.trans (startOf_fs i s), k4, rfl⟩))
    | hung k1 k2 k3 k4 k5 =>
      exact .inr (.inr (.inr ⟨_, _, _, k1, k2, startOf_cfg i s ▸ k3, k4.trans (startOf_fs i s), k5, rfl⟩))

end Sys2Proof.Machine
end

