-- ==== Sys2Proof/Laws/PerInstr.lean ====
section
/-! SUPPORT. Statements made per instruction. Family `OpField`: the word of a command holds the operation code of rule R64 in
bits 31:28, and zero in bits 7:4 (rule R60). -/

namespace Sys2Proof.Laws.OpField

/-- The operation code of the table of rule R64. -/
def opCode : Instr → BitVec 4
  | .rdreg _ _ => 1
  | .wrreg _ _ => 2
  | .verify => 3
  | .setrate _ => 4
  | .pwron => 4
  | .pwroff => 4
  | .setfs _ => 5
  | .setspi _ => 6
  | .init _ => 7
  | .sample => 8

/-- The family's statement. -/
def Statement (i : Instr) : Prop :=
  fieldOp (encode i) = opCode i ∧ (encode i).extractLsb' 4 4 = 0

theorem packWord_z (op len : BitVec 4) (reg data : Byte) (arg : BitVec 4) :
    (packWord op len reg data arg).extractLsb' 4 4 = 0 := by
  ext i hi
  simp [packWord]
  grind

theorem of_packWord {i : Instr} (len : BitVec 4) (reg data : Byte) (arg : BitVec 4)
    (h : encode i = packWord (opCode i) len reg data arg) : Statement i := by
  unfold Statement
  rw [h]
  exact ⟨fieldOp_packWord .., packWord_z ..⟩

theorem rdreg (reg : Byte) (len : BitVec 4) : Statement (.rdreg reg len) := of_packWord _ _ _ _ rfl
theorem wrreg (reg data : Byte) : Statement (.wrreg reg data) := of_packWord _ _ _ _ rfl
theorem verify : Statement .verify := of_packWord _ _ _ _ rfl
theorem setrate (mode : BitVec 4) : Statement (.setrate mode) := of_packWord _ _ _ _ rfl
theorem pwron : Statement .pwron := of_packWord _ _ _ _ rfl
theorem pwroff : Statement .pwroff := of_packWord _ _ _ _ rfl
theorem setfs (fs : FsCode) : Statement (.setfs fs) := of_packWord _ _ _ _ rfl
theorem setspi (mode : SpiMode) : Statement (.setspi mode) := of_packWord _ _ _ _ rfl
theorem init (fs : FsCode) : Statement (.init fs) := of_packWord _ _ _ _ rfl
theorem sample : Statement .sample := of_packWord _ _ _ _ rfl

end Sys2Proof.Laws.OpField
end

