-- ==== Sys2Proof/Tests/Slice0.lean ====
section
/-! SUPPORT. Small tests with results taken from spec/95_test_vectors.md and the worked examples of the rules, a smoke test of the
well-formedness checks, and one witness for the hypotheses of each statement that has any. -/

namespace Sys2Proof.Machine.Tests

/-- The next state, to compare fields of it. -/
def nextOf (o : Host.Outcome State Fault Refusal) : Option State :=
  match o with
  | .next t => some t
  | .fault _ => none
  | .refused _ => none

/-- A ready block with the default parameters and the answers to come. -/
def ready (b : Bus) (as : List Answer) : State :=
  { State.resetWith (defaultCfg b .lo) with initOk := true, oracle := as }

/-- A block just reset, with the answers to come. -/
def fresh (b : Bus) (as : List Answer) : State := { State.resetWith (defaultCfg b .lo) with oracle := as }

/-- A reply of one byte, or with no meaning of the byte the `Ok` of a write. -/
def one (b : Byte) : Answer := .ok ⟨b, 0, 0, 0, 0, 0⟩

/-- Status, `FS`, `INIT_OK` and `TRACE` of the next state. -/
def summary (o : Host.Outcome State Fault Refusal) : Option (Option Status × FsCode × Bool × List Event) :=
  (nextOf o).map fun t => (t.resp.map Resp.status, t.fs, t.initOk, t.trace)

/-! ### Well-formedness: an ill-formed command for each check -/

theorem test_wf_len_zero : (Instr.rdreg 0x28 0).wellFormed .i2c = false := by decide
theorem test_wf_len_seven : (Instr.rdreg 0x28 7).wellFormed .i2c = false := by decide
theorem test_wf_rdreg_reg : (Instr.rdreg 0x40 1).wellFormed .spi = false := by decide
theorem test_wf_wrreg_reg : (Instr.wrreg 0x40 0).wellFormed .spi = false := by decide
theorem test_wf_rate : (Instr.setrate 10).wellFormed .spi = false := by decide
theorem test_wf_i2c_reg : (Instr.rdreg 0xFF 6).wellFormed .i2c = true := by decide

/-! ### Decoding: words written out bit by bit from the formats of rules R61 to R63 (operation code, length, register, data,
zero, argument) -/

theorem test_decode_rdreg : decodeWord 0b0001_0110_00101000_00000000_0000_0000 = .ok (.rdreg 0x28 6) := by decide
theorem test_decode_wrreg : decodeWord 0b0010_0000_00100000_01110111_0000_0000 = .ok (.wrreg 0x20 0x77) := by decide
theorem test_decode_verify : decodeWord 0b0011_0000_00000000_00000000_0000_0000 = .ok .verify := by decide
theorem test_decode_setrate : decodeWord 0b0100_0000_00000000_00000000_0000_1001 = .ok (.setrate 9) := by decide
theorem test_decode_pwron : decodeWord 0b0100_0000_00000000_00000000_0000_0111 = .ok (.setrate 7) := by decide
theorem test_decode_pwroff : decodeWord 0b0100_0000_00000000_00000000_0000_0000 = .ok (.setrate 0) := by decide
theorem test_decode_setfs : decodeWord 0b0101_0000_00000000_00000000_0000_0011 = .ok (.setfs 3) := by decide
theorem test_decode_setspi : decodeWord 0b0110_0000_00000000_00000000_0000_0001 = .ok (.setspi .threeWire) := by decide
theorem test_decode_init : decodeWord 0b0111_0000_00000000_00000000_0000_0010 = .ok (.init 2) := by decide
theorem test_decode_sample : decodeWord 0b1000_0000_00000000_00000000_0000_0000 = .ok .sample := by decide
/-- V9, V12, V16, V19. -/
theorem test_decode_stray : decodeWord 0x110F0100 = .error .strayBits ∧ decodeWord 0x21207700 = .error .strayBits ∧
    decodeWord 0x30000001 = .error .strayBits ∧ decodeWord 0x40000017 = .error .strayBits := by decide
/-- V23, V27, V29a. -/
theorem test_decode_stray_arg : decodeWord 0x50000004 = .error .strayBits ∧ decodeWord 0x60000002 = .error .strayBits ∧
    decodeWord 0x80000001 = .error .strayBits := by decide
/-- V29b, V29c, V29d. -/
theorem test_decode_no_op : decodeWord 0x00000000 = .error .noSuchOp ∧ decodeWord 0x90000000 = .error .noSuchOp ∧
    decodeWord 0xFFFFFFFF = .error .noSuchOp := by decide
/-- V3 to V6, V14, V18. -/
theorem test_decode_operands : checkOperands .spi (.rdreg 0x28 0) = some .lenOutOfRange ∧
    checkOperands .i2c (.rdreg 0x28 7) = some .lenOutOfRange ∧ checkOperands .i2c (.rdreg 0x28 15) = some .lenOutOfRange ∧
    checkOperands .spi (.rdreg 0x40 1) = some .regOutOfRange ∧ checkOperands .spi (.wrreg 0xFF 0) = some .regOutOfRange ∧
    checkOperands .spi (.setrate 10) = some .rateOutOfRange := by decide
/-- The words of rule R79. -/
theorem test_encode_words : encode (.rdreg 0x0F 1) = 0x110F0000 ∧ encode (.wrreg 0x20 0x5A) = 0x20205A00 ∧
    encode .pwron = 0x40000007 ∧ encode (.setfs 2) = 0x50000002 ∧ encode (.setspi .threeWire) = 0x60000001 ∧
    encode (.init 3) = 0x70000003 ∧ encode .sample = 0x80000000 := by decide
theorem test_table_word : decodeTableWord 32 0x16280000 = some (.rdreg 0x28 6) := by decide

/-! ### Pure functions -/

/-- V33, V37, V38, V41. -/
theorem test_insert : insertField 0xA5 rateMask ratePos 9 = 0x95 ∧ insertField 0x88 fsMask fsPos 2 = 0xA8 ∧
    insertField 0xB9 fsMask fsPos 1 = 0x99 ∧ insertField 0x81 0x01 0 0 = 0x80 := by decide
/-- V50, V53, V57, V58. -/
theorem test_spiCmd : spiCmd true false 0x0F = 0x8F ∧ spiCmd true true 0x28 = 0xE8 ∧ spiCmd true true 0x3F = 0xFF ∧
    spiCmd false false 0x20 = 0x20 := by decide
/-- V71, V72, V79, V81, V82. -/
theorem test_assemble : (assemble 0xFF 0x7F).toInt = 32767 ∧ (assemble 0x00 0x80).toInt = -32768 ∧
    (assemble 0xF0 0xFF).toInt = -16 ∧ (assemble 0x34 0x12).toInt = 4660 ∧ (assemble 0x80 0x00).toInt = 128 := by decide
/-- V90, V91, V92, V95, V96, V102 and the values at `FRAC` = 0 and 26. -/
theorem test_scale : scaleInt 16 32767 0 = 131072 ∧ scaleInt 16 (-32768) 3 = -1048576 ∧ scaleInt 16 0 1 = 4 ∧
    scaleInt 16 16384 0 = 65539 ∧ scaleInt 16 (-16384) 0 = -65535 ∧ scaleInt 16 4096 1 = 32773 ∧
    scaleInt 0 8192 0 = 1 ∧ scaleInt 0 8191 0 = 0 ∧ scaleInt 26 32767 3 = 1073741824 := by decide
theorem test_scale_register : scale 16 (-16384) 0 = 0xFFFF0001 := by decide

/-! ### Commands -/

/-- The example of rule R100. -/
theorem test_rdreg : (nextOf (exec (.rdreg 0x0F 1) (ready .spi [one 0x33]))).map (fun t => (t.resp, t.trace)) =
    some (some { bareResp .ok with len := 1, data := ⟨0x33, 0, 0, 0, 0, 0⟩ },
      [.csLow, .transport (.spiWriteThenRead [0x8F] 1) (.ok [0x33]), .csHigh]) := by decide
/-- Program P5, command 11: two bytes. -/
theorem test_rdreg_two : (nextOf (exec (.rdreg 0x20 2) (ready .spi [.ok ⟨0x75, 0, 9, 9, 9, 9⟩]))).map
    (fun t => (t.resp.map Resp.data, t.trace.length)) = some (some ⟨0x75, 0, 0, 0, 0, 0⟩, 3) := by decide
/-- The example of rule R102. -/
theorem test_wrreg : summary (exec (.wrreg 0x20 0x77) (ready .i2c [one 0])) =
    some (some .ok, 0, true, [.transport (.i2cWrite 0x18 [0x20, 0x77]) (.ok [])]) := by decide
/-- The example of rule R114, with the reply 0x32. -/
theorem test_verify_mismatch : summary (exec .verify (ready .spi [one 0x32])) = some (some .deviceMismatch, 0, true,
    [.csLow, .transport (.spiWriteThenRead [0x8F] 1) (.ok [0x32]), .csHigh]) := by decide
theorem test_verify_ok : (summary (exec .verify (ready .i2c [one 0x33]))).map (·.1) = some (some .ok) := by decide
/-- The example of rule R118. -/
theorem test_setrate : summary (exec (.setrate 5) (ready .i2c [one 0x07, one 0])) = some (some .ok, 0, true,
    [.transport (.i2cWriteThenRead 0x18 [0x20] 1) (.ok [0x07]), .transport (.i2cWrite 0x18 [0x20, 0x57]) (.ok [])]) := by
  decide
/-- The examples of rule R119. -/
theorem test_pwron : ((nextOf (exec .pwron (ready .i2c [one 0x0F, one 0]))).bind (·.trace.getLast?)) =
    some (.transport (.i2cWrite 0x18 [0x20, 0x7F]) (.ok [])) := by decide
theorem test_pwroff : ((nextOf (exec .pwroff (ready .i2c [one 0x7F, one 0]))).bind (·.trace.getLast?)) =
    some (.transport (.i2cWrite 0x18 [0x20, 0x0F]) (.ok [])) := by decide
/-- The example of rule R120. -/
theorem test_setfs : summary (exec (.setfs 2) (ready .spi [one 0x88, one 0])) = some (some .ok, 2, true,
    [.csLow, .transport (.spiWriteThenRead [0xA3] 1) (.ok [0x88]), .csHigh,
      .csLow, .transport (.spiWrite [0x23, 0xA8]) (.ok []), .csHigh]) := by decide
/-- V43: the write fails, `FS` is kept and the line is high. -/
theorem test_setfs_write_fails : (nextOf (exec (.setfs 1) (ready .spi [one 0x00, .fail]))).map
    (fun t => (t.resp.map Resp.status, t.fs, t.csLevel, t.trace.drop 3)) =
    some (some .transport, 0, .high, [.csLow, .transport (.spiWrite [0x23, 0x10]) .fail, .csHigh]) := by decide
/-- The example of rule R124. -/
theorem test_setspi : ((nextOf (exec (.setspi .fourWire) (ready .spi [one 0x81, one 0]))).map (·.trace.drop 3)) =
    some [.csLow, .transport (.spiWrite [0x23, 0x80]) (.ok []), .csHigh] := by decide
/-- V144: `UNSUPPORTED` before `NOT_READY`. -/
theorem test_setspi_refused : summary (exec (.setspi .threeWire) (fresh .spi [])) =
    some (some .unsupported, 0, false, []) := by decide
/-- The example of rule R128. -/
theorem test_init_i2c : summary (exec (.init 0) (fresh .i2c [one 0x33, one 0x07, one 0, one 0x00, one 0])) =
    some (some .ok, 0, true,
      [.transport (.i2cWriteThenRead 0x18 [0x0F] 1) (.ok [0x33]), .transport (.i2cWriteThenRead 0x18 [0x20] 1) (.ok [0x07]),
        .transport (.i2cWrite 0x18 [0x20, 0x77]) (.ok []), .transport (.i2cWriteThenRead 0x18 [0x23] 1) (.ok [0x00]),
        .transport (.i2cWrite 0x18 [0x23, 0x00]) (.ok [])]) := by decide
/-- Program P6, command 1: transport call 4 fails. -/
theorem test_init_spi_fails : (nextOf (exec (.init 0) (fresh .spi [one 0, one 0, one 0x33, one 0x07, .fail]))).map
    (fun t => (t.resp.map Resp.status, t.initOk, t.csLevel, t.trace.drop 12)) =
    some (some .transport, false, .high, [.csLow, .transport (.spiWrite [0x20, 0x77]) .fail, .csHigh]) := by decide
/-- V120. -/
theorem test_sample : (nextOf (exec .sample (ready .spi [.ok ⟨0x00, 0x40, 0x00, 0xC0, 0xF0, 0x7F⟩]))).bind (·.resp) =
    some { bareResp .ok with raw := ⟨16384, -16384, 32752⟩, acc := ⟨65539, -65535, 131012⟩ } := by decide
/-- V124. -/
theorem test_sample_16g : ((nextOf (exec .sample { ready .i2c [.ok ⟨0x10, 0, 0xF0, 0xFF, 0, 0x10⟩] with fs := 3 })).bind
    (·.resp)).map Resp.acc = some ⟨528, -496, 131090⟩ := by decide
/-- V140, V143. -/
theorem test_not_ready : summary (step ((fresh .spi []).withFetchWord 32 0x80000000)) = some (some .notReady, 0, false, []) ∧
    summary (step ((fresh .spi []).withFetchWord 32 0)) = some (some .badCommand, 0, false, []) := by decide
/-- Rule R98: a call that never returns, on SPI. -/
theorem test_never : (nextOf (exec .verify (ready .spi [.never]))).map (fun t => (t.activity, t.csLevel, t.resp)) =
    some (.waiting (.spiWriteThenRead [0x8F] 1), .low, none) := by decide

/-! ### Witnesses: the hypotheses of each statement hold together -/

theorem witness_EncodeOfDecode : decodeWord 0x16280000 = .ok (.rdreg 0x28 6) := by decide
theorem witness_SpiCommandByteFields : 0 < 6 ∧ 5 < 6 := by decide
theorem witness_ScaleShape : (-32768 : Int) ≤ -32768 ∧ (32766 : Int) < 32767 := by decide
theorem witness_ScaleRangesNest : (0 : FsCode).toNat < 3 ∧ (2 : FsCode).toNat < 3 := by decide
theorem witness_StatusCodes : statusCode .unsupported = statusCode .unsupported := rfl
theorem witness_SpiReadFrame : let s := ready .spi [one 0x33]
    s.cfg.bus = .spi ∧ (0x3F : Byte).toNat ≤ 0x3F ∧ 1 ≤ 1 ∧ 1 ≤ 6 ∧ s.answerAt 0 = one 0x33 ∧
      (ready .spi [.fail]).answerAt 0 = .fail := by decide
theorem witness_I2cReadFrame : let s := ready .i2c [one 0x33]
    s.cfg.bus = .i2c ∧ 1 ≤ 6 ∧ 6 ≤ 6 ∧ s.answerAt 0 = one 0x33 ∧ (ready .i2c [.fail]).answerAt 0 = .fail := by decide
theorem witness_WriteFrames : (ready .spi [one 0]).cfg.bus = .spi ∧ (0x3F : Byte).toNat ≤ 0x3F ∧
    (ready .spi [one 0]).answerAt 0 = one 0 ∧ (ready .i2c [.fail]).cfg.bus = .i2c ∧
    (ready .i2c [.fail]).answerAt 0 = .fail := by decide
theorem witness_ReadModifyWriteSteps : (ready .spi [one 1, one 0]).answerAt 0 = one 1 ∧
    (ready .spi [one 1, one 0]).answerAt 1 = one 0 ∧ (ready .spi [.fail]).answerAt 0 = .fail ∧
    (ready .i2c [one 1, .fail]).answerAt 1 = .fail := by decide
theorem witness_StepRunsTheCommand : let s := { ready .spi [one 0x33] with inbox := [0x30000000] }
    s.activity = .idle ∧ s.inbox = [0x30000000] ∧ decodeWord 0x30000000 = .ok .verify := by decide
theorem witness_PlacedWordRuns : decodeWord 0x80000000 = .ok .sample := by decide
theorem witness_IllegalWordIsBadCommand : let s := { ready .spi [] with inbox := [0x90000000] }
    s.activity = .idle ∧ s.inbox = [0x90000000] ∧ decodeWord 0x90000000 = .error .noSuchOp := by decide
theorem witness_StepWaits : ((ready .spi []).activity = .idle ∧ (ready .spi []).inbox = []) ∧
    ∃ c, ({ ready .spi [] with activity := .waiting (.spiWrite [0, 0]) } : State).activity = .waiting c :=
  ⟨by decide, _, rfl⟩
theorem witness_BadOperandIsBadCommand : 6 < (7#4).toNat ∧ (ready .spi []).cfg.bus = .spi ∧ 0x3F < (0x40#8).toNat ∧
    9 < (10#4).toNat := by decide
theorem witness_SetspiIsRefused : (ready .i2c []).cfg.bus = .i2c ∧ (ready .spi []).cfg.bus ≠ .i2c := by decide
theorem witness_NotReadyIsRefused : (fresh .spi []).initOk = false ∧ (∀ f, Instr.setspi .fourWire ≠ .init f) ∧
    (Instr.setspi .fourWire).wellFormed (fresh .spi []).cfg.bus = true ∧
    ∀ m, Instr.setspi .fourWire = .setspi m → (fresh .spi []).cfg.bus = .spi ∧ m = .fourWire :=
  ⟨rfl, by simp, rfl, by simp [fresh, State.resetWith, defaultCfg]⟩
theorem witness_RdregCompletes : (ready .spi [one 1]).initOk = true ∧ 1 ≤ (1#4).toNat ∧ (6#4).toNat ≤ 6 ∧
    ((ready .spi [one 1]).cfg.bus = .spi → (0x3F#8).toNat ≤ 0x3F) ∧ (ready .spi [one 1]).answerAt 0 = one 1 ∧
    ((ready .i2c [one 1]).cfg.bus = .spi → (0xFF#8).toNat ≤ 0x3F) := by decide
theorem witness_WrregCompletes : (ready .i2c [one 0]).initOk = true ∧
    ((ready .i2c [one 0]).cfg.bus = .spi → (0xFF#8).toNat ≤ 0x3F) ∧ (ready .i2c [one 0]).answerAt 0 = one 0 := by decide
theorem witness_VerifyCompletes : (ready .spi [one 0x33]).initOk = true ∧
    (ready .spi [one 0x33]).answerAt 0 = one 0x33 := by decide
theorem witness_RateCommandsComplete : let s := ready .i2c [one 7, one 0]
    s.initOk = true ∧ s.answerAt 0 = one 7 ∧ s.answerAt 1 = one 0 ∧ (9#4).toNat ≤ 9 := by decide
theorem witness_SetfsCompletes : let s := ready .spi [one 0x88, one 0]
    s.initOk = true ∧ s.answerAt 0 = one 0x88 ∧ s.answerAt 1 = one 0 := by decide
theorem witness_SetfsFailureKeepsTheRange : (ready .spi [.fail]).initOk = true ∧ (ready .spi [.fail]).answerAt 0 = .fail ∧
    (ready .spi [one 0, .fail]).answerAt 0 = one 0 ∧ (ready .spi [one 0, .fail]).answerAt 1 = .fail := by decide
theorem witness_RateCommandsFail : (ready .i2c [.fail]).initOk = true ∧ (ready .i2c [.fail]).answerAt 0 = .fail ∧
    (ready .spi [one 7, .fail]).answerAt 0 = one 7 ∧ (ready .spi [one 7, .fail]).answerAt 1 = .fail ∧
    (9#4).toNat ≤ 9 := by decide
theorem witness_SetspiFails : (ready .spi [.fail]).initOk = true ∧ (ready .spi [.fail]).cfg.bus = .spi ∧
    (ready .spi [.fail]).answerAt 0 = .fail ∧ (ready .spi [one 1, .fail]).answerAt 0 = one 1 ∧
    (ready .spi [one 1, .fail]).answerAt 1 = .fail := by decide
theorem witness_InitFailsOnI2c : let s := fresh .i2c [one 0x33, one 7, one 0, one 0, .fail]
    s.cfg.bus = .i2c ∧ s.answerAt 0 = one 0x33 ∧ s.answerAt 1 = one 7 ∧ s.answerAt 2 = one 0 ∧ s.answerAt 3 = one 0 ∧
    s.answerAt 4 = .fail ∧ (fresh .i2c [.fail]).answerAt 0 = .fail ∧
    (fresh .i2c [one 0x33, .fail]).answerAt 1 = .fail ∧ (fresh .i2c [one 0x33, one 7, .fail]).answerAt 2 = .fail ∧
    (fresh .i2c [one 0x33, one 7, one 0, .fail]).answerAt 3 = .fail := by decide
theorem witness_InitFailsOnSpi : let s := fresh .spi [one 1, one 0, one 0x33, one 7, one 0, one 0, .fail]
    s.cfg.bus = .spi ∧ s.answerAt 0 = one 1 ∧ s.answerAt 1 = one 0 ∧ s.answerAt 2 = one 0x33 ∧ s.answerAt 3 = one 7 ∧
    s.answerAt 4 = one 0 ∧ s.answerAt 5 = one 0 ∧ s.answerAt 6 = .fail ∧ (fresh .spi [.fail]).answerAt 0 = .fail ∧
    (fresh .spi [one 1, .fail]).answerAt 1 = .fail ∧ (fresh .spi [one 1, one 0, .fail]).answerAt 2 = .fail ∧
    (fresh .spi [one 1, one 0, one 0x33, .fail]).answerAt 3 = .fail ∧
    (fresh .spi [one 1, one 0, one 0x33, one 7, .fail]).answerAt 4 = .fail ∧
    (fresh .spi [one 1, one 0, one 0x33, one 7, one 0, .fail]).answerAt 5 = .fail := by decide
theorem witness_SetspiCompletes : let s := ready .spi [one 0x81, one 0]
    s.initOk = true ∧ s.cfg.bus = .spi ∧ s.answerAt 0 = one 0x81 ∧ s.answerAt 1 = one 0 := by decide
theorem witness_InitCompletesOnI2c : let s := fresh .i2c [one 0x33, one 7, one 0, one 1, one 0]
    s.cfg.bus = .i2c ∧ s.answerAt 0 = one 0x33 ∧ s.answerAt 1 = one 7 ∧ s.answerAt 2 = one 0 ∧ s.answerAt 3 = one 1 ∧
      s.answerAt 4 = one 0 := by decide
theorem witness_InitCompletesOnSpi : let s := fresh .spi [one 1, one 0, one 0x33, one 7, one 0, one 1, one 0]
    s.cfg.bus = .spi ∧ s.answerAt 0 = one 1 ∧ s.answerAt 1 = one 0 ∧ s.answerAt 2 = one 0x33 ∧ s.answerAt 3 = one 7 ∧
      s.answerAt 4 = one 0 ∧ s.answerAt 5 = one 1 ∧ s.answerAt 6 = one 0 := by decide
theorem witness_InitStopsOnMismatch : (fresh .i2c [one 0x32]).cfg.bus = .i2c ∧
    (fresh .i2c [one 0x32]).answerAt 0 = one 0x32 ∧ (0x32 : Byte) ≠ 0x33 ∧
    (fresh .spi [one 1, one 0, one 0x32]).cfg.bus = .spi ∧ (fresh .spi [one 1, one 0, one 0x32]).answerAt 0 = one 1 ∧
    (fresh .spi [one 1, one 0, one 0x32]).answerAt 1 = one 0 ∧
    (fresh .spi [one 1, one 0, one 0x32]).answerAt 2 = one 0x32 := by decide
theorem witness_InitOkMeansInitEndedOk :
    (∃ t, exec (.init 2) (fresh .i2c [one 0x33, one 7, one 0, one 1, one 0]) = .next t ∧ t.initOk = true) ∧
    ∃ t, exec (.init 2) (fresh .i2c [.fail]) = .next t ∧ t.initOk = false :=
  ⟨⟨_, rfl, by decide⟩, _, rfl, by decide⟩
theorem witness_SampleCompletes : (ready .spi [one 1]).initOk = true ∧ (ready .spi [one 1]).answerAt 0 = one 1 := by decide
theorem witness_FailedAccessIsTransport : (ready .spi [.fail]).initOk = true ∧ (ready .spi [.fail]).answerAt 0 = .fail ∧
    1 ≤ (1#4).toNat ∧ (1#4).toNat ≤ 6 ∧ (0x3F#8).toNat ≤ 0x3F := by decide
theorem witness_SetfsThenSample :
    ∃ t, exec (.setfs 3) (ready .spi [one 0, one 0, one 0x10]) = .next t ∧ t.resp.map Resp.status = some .ok ∧
      ∃ u, exec .sample t = .next u ∧ u.resp.map Resp.status = some .ok :=
  ⟨_, rfl, by decide, _, rfl, by decide⟩
theorem witness_CommandFrame : ∃ t, exec .verify (ready .i2c [one 0x33]) = .next t ∧ (∀ f, Instr.verify ≠ .setfs f) ∧
    ∀ f, Instr.verify ≠ .init f := ⟨_, rfl, by simp, by simp⟩
theorem witness_FailureLeaves :
    (∃ t, exec .sample (ready .spi [.fail]) = .next t ∧ t.resp.map Resp.status = some .transport) ∧
    ∃ t, exec (.init 1) (ready .i2c [one 0x32]) = .next t ∧ t.resp.map Resp.status = some .deviceMismatch :=
  ⟨⟨_, rfl, by decide⟩, _, rfl, by decide⟩
theorem witness_FailuresArePrecise : ∃ t, exec (.setfs 1) (ready .spi [one 0, .fail]) = .next t ∧
    t.resp = some (bareResp .transport) := ⟨_, rfl, by decide⟩
theorem witness_CallsOfSuccess : ∃ t, exec (.setfs 1) (ready .spi [one 0, one 0]) = .next t ∧
    t.resp = some (bareResp .ok) := ⟨_, rfl, by decide⟩
theorem witness_NeverReturningCall : let s := ready .spi [one 0x88, .never]
    (Instr.setfs 2).wellFormed s.cfg.bus = true ∧ s.initOk = true ∧
    (callsIn s.cfg (fun _ => ⟨0x88, 0, 0, 0, 0, 0⟩) (.setfs 2))[1]? = some (.spiWrite [0x23, 0xA8]) ∧
    s.answerAt 0 = one 0x88 ∧ s.answerAt 1 = .never := by decide
theorem witness_NeverReturningCall_first : (ready .spi [.never]).answerAt 0 = .never ∧
    (callsIn (defaultCfg .spi .lo) (fun _ => default) .verify)[0]? = some (.spiWriteThenRead [0x8F] 1) := by decide
theorem witness_NeverReturningCall_init : let s := fresh .i2c [one 0x33, .never]
    (callsIn s.cfg (fun _ => ⟨0x33, 0, 0, 0, 0, 0⟩) (.init 0))[1]? = some (.i2cWriteThenRead 0x18 [0x20] 1) ∧
    identityCall s.cfg.bus < 1 ∧ s.answerAt 0 = one 0x33 ∧ s.answerAt 1 = .never := by decide
theorem witness_StepKeepsInv : (ready .spi [one 0x33]).Inv ∧
    (∃ t, step ((ready .spi [one 0x33]).withFetchWord 32 0x30000000) = .next t) ∧
    ((ready .spi [one 0x33]).withFetchWord 32 0x30000000).Inv := by
  refine ⟨⟨⟨rfl, rfl⟩, ?_, fun _ => rfl⟩, ⟨_, rfl⟩, ⟨⟨rfl, rfl⟩, ?_, fun _ => rfl⟩⟩ <;> rintro r ⟨⟩
theorem witness_BusesAgree : sameSteps .verify = true ∧ Instr.verify.wellFormed .spi = true ∧
    (∃ t, exec .verify ((ready .spi [one 0x33]).onBus .i2c) = .next t) ∧
    ∃ u, exec .verify ((ready .spi [one 0x33]).onBus .spi) = .next u := ⟨rfl, rfl, ⟨_, rfl⟩, _, rfl⟩
theorem witness_TraceIsOnlyARecord : ∃ t, exec .verify (ready .spi [one 0x33]) = .next t := ⟨_, rfl⟩
theorem witness_UnaskedBytesAreNotRead : sameFirst (bytesRead .verify) ⟨0x33, 0, 0, 0, 0, 0⟩ ⟨0x33, 1, 2, 3, 4, 5⟩ ∧
    ∃ t, exec .verify { ready .spi [] with oracle := [one 0x33] } = .next t := ⟨rfl, _, rfl⟩

end Sys2Proof.Machine.Tests
end

/-! PROOFS. The step of the machine, the frame of every command, and what a command does not depend on: the bus, the record
`TRACE`, and the reply bytes it did not ask for (00_scope.md). -/

namespace Sys2Proof.Machine

/-! ### Pure functions -/

/-- Settles O15: each limit is the power of two that rule R150 gives. -/
theorem limitOfEachCode : Obligations.LimitOfEachCode := by
  refine ⟨?_, ?_, ?_, ?_⟩ <;> simp [limit]

/-! ### The step -/

theorem State.presented_of_idle {s : State} (h : s.activity = .idle) : s.presented = s.inbox.head? := by
  simp [State.presented, h]

theorem State.presented_of_waiting {s : State} {c : Call} (h : s.activity = .waiting c) : s.presented = none := by
  simp [State.presented, h]

theorem step_of_presented_none {s : State} (h : s.presented = none) : step s = .next s := by
  simp [step, h]

theorem step_of_decoded {s : State} {w : CmdWord} {i : Instr} (h : s.presented = some w) (hd : decodeWord w = .ok i) :
    step s = exec i s.take := by
  simp [step, h, hd]

/-- A word numbered as a table word of 32 bits is itself. -/
@[simp] theorem tableWord_toNat (w : CmdWord) : tableWord 32 w.toNat = w := by
  simp [tableWord, Nat.mod_eq_of_lt w.isLt]

/-- Settles O22: the presented word is the first of the host's list, and taking it leaves the rest. -/
theorem stepRunsTheCommand : Obligations.StepRunsTheCommand := by
  intro s w ws i hidle hbox hd
  have hp : s.presented = some w := by simp [State.presented_of_idle hidle, hbox]
  have ht : s.take = { s with inbox := ws } := by simp [State.take, hbox]
  rw [step_of_decoded hp hd, ht]

/-- Settles O23: the placed word is the head of the list that `stepRunsTheCommand` takes from. -/
theorem placedWordRuns : Obligations.PlacedWordRuns := by
  intro s w i hd
  exact stepRunsTheCommand (s.withFetchWord 32 w.toNat) w s.inbox i rfl (by simp [State.withFetchWord]) hd

/-- Settles O25: in both cases the block takes no word from the port. -/
theorem stepWaits : Obligations.StepWaits := by
  rintro s (⟨hidle, hbox⟩ | ⟨c, hc⟩)
  · exact step_of_presented_none (by simp [State.presented_of_idle hidle, hbox])
  · exact step_of_presented_none (State.presented_of_waiting hc)

/-! ### The frame of every command -/

theorem State.restLevel_of_i2c {s : State} (h : s.cfg.bus = .i2c) : s.restLevel = s.csLevel := by
  simp [State.restLevel, h]

theorem State.callLevel_of_i2c {s : State} (h : s.cfg.bus = .i2c) : s.callLevel = s.csLevel := by
  simp [State.callLevel, h]

theorem okFs_of_ne {i : Instr} (s : State) (hf : ∀ f, i ≠ .setfs f) (hi : ∀ f, i ≠ .init f) : okFs i s = s.fs := by
  cases i with
  | setfs f => exact absurd rfl (hf f)
  | init f => exact absurd rfl (hi f)
  | _ => rfl

theorem okInit_of_ne {i : Instr} (s : State) (hi : ∀ f, i ≠ .init f) : okInit i s = s.initOk := by
  cases i with
  | init f => exact absurd rfl (hi f)
  | _ => rfl

/-- What the command `i` keeps: the parameters, the host's words, the past events, on I2C the line, and the fields of `ST`
that it does not write. -/
structure Framed (i : Instr) (s t : State) : Prop where
  cfg : t.cfg = s.cfg
  inbox : t.inbox = s.inbox
  trace : s.trace <+: t.trace
  csLevel : s.cfg.bus = .i2c → t.csLevel = s.csLevel
  fs : (∀ f, i ≠ .setfs f) → (∀ f, i ≠ .init f) → t.fs = s.fs
  initOk : (∀ f, i ≠ .init f) → t.initOk = s.initOk

section
variable {i : Instr} {s u : State}

theorem Framed.refusedWith (i : Instr) (s : State) (st : Status) : Framed i s (s.refusedWith st) where
  cfg := rfl
  inbox := rfl
  trace := List.prefix_rfl
  csLevel _ := rfl
  fs _ _ := rfl
  initOk _ := rfl

/-- The accesses of a command keep the frame; its flags are those of success, or those it started with. -/
theorem Trail.framed {ps : List Access} (h : Trail (startOf i s) u ps) (hfs : u.fs = okFs i s ∨ u.fs = s.fs)
    (hinit : u.initOk = okInit i s ∨ u.initOk = (startOf i s).initOk) : Framed i s u where
  cfg := by simp [h.cfg]
  inbox := by simp [h.inbox]
  trace := by simp [h.trace]
  csLevel hb := by
    have hrest : (startOf i s).restLevel = s.csLevel := by
      rw [State.restLevel_of_i2c (by simpa using hb), startOf_csLevel]
    simp [h.csLevel, hrest]
  fs hf hi := hfs.elim (·.trans (okFs_of_ne s hf hi)) id
  initOk hi := hinit.elim (·.trans (okInit_of_ne s hi)) (·.trans (startOf_initOk s hi))

theorem Framed.respond (h : Framed i s u) (r : Resp) : Framed i s (u.respond r) :=
  ⟨h.cfg, h.inbox, h.trace, h.csLevel, h.fs, h.initOk⟩

theorem Framed.stuckIn (h : Framed i s u) (c : Call) : Framed i s (u.stuckIn c) where
  cfg := h.cfg
  inbox := h.inbox
  trace := h.trace.trans (List.prefix_append ..)
  csLevel hb := by rw [State.stuckIn_csLevel, State.callLevel_of_i2c (h.cfg ▸ hb), h.csLevel hb]
  fs := h.fs
  initOk := h.initOk

end

theorem exec_framed {i : Instr} {s t : State} (h : exec i s = .next t) : Framed i s t := by
  obtain ⟨st, -, -, rfl⟩ | ⟨u, ps, r, hu, -, hok, rfl⟩ | ⟨u, ps, q, hu, -, -, hfs, hin, rfl⟩ |
    ⟨u, ps, hu, -, hfs, hin, rfl⟩ | ⟨u, ps, c, hu, -, -, hfs, hin, rfl⟩ := exec_cases h
  · exact .refusedWith i s st
  · exact (hu.framed (.inl hok.fs) (.inl hok.initOk)).respond r
  · exact (hu.framed (.inr hfs) (.inr hin)).respond _
  · exact (hu.framed (.inr hfs) (.inr hin)).respond _
  · exact (hu.framed (.inr hfs) (.inr hin)).stuckIn c

/-- Settles O44, from what each outcome of `exec_cases` keeps. -/
theorem commandFrame : Obligations.CommandFrame := by
  intro i s t h
  obtain ⟨hcfg, hinbox, htrace, hlevel, hfs, hinit⟩ := exec_framed h
  exact ⟨hcfg, hinbox, htrace, hlevel, hfs, hinit⟩

/-! ### Two runs side by side -/

/-- Two runs that end in the same way, with the same value or status, in states that `R` relates. -/
inductive Run.Sim {α : Type} (R : State → State → Prop) : Run α → Run α → Prop
  | ok (a : α) {s t : State} : R s t → Run.Sim R (.ok a s) (.ok a t)
  | raised (st : Status) {s t : State} : R s t → Run.Sim R (.raised st s) (.raised st t)
  | hung {s t : State} : R s t → Run.Sim R (.hung s) (.hung t)

theorem Run.Sim.andThen {α β : Type} {R : State → State → Prop} {q r : Run α} {f g : α → State → Run β}
    (h : Run.Sim R q r) (hfg : ∀ a s t, R s t → Run.Sim R (f a s) (g a t)) :
    Run.Sim R (q.andThen f) (r.andThen g) := by
  cases h with
  | ok a h => exact hfg a _ _ h
  | raised st h => exact .raised st h
  | hung h => exact .hung h

theorem Run.Sim.respondOk {R : State → State → Prop} {q r : Run Unit} (h : Run.Sim R q r) :
    Run.Sim R (respondOk q) (respondOk r) :=
  h.andThen fun _ _ _ h => .ok (bareResp .ok) h

/-- `R` relates states that a command cannot tell apart but for the bus: the operations of a step list keep it. -/
structure Preserved (R : State → State → Prop) : Prop where
  cfg : ∀ {s t}, R s t → ∃ b, t.cfg = { s.cfg with bus := b }
  fs : ∀ {s t}, R s t → t.fs = s.fs
  access : ∀ {s t} (call : Cfg → Call) (n : Nat), R s t →
    Run.Sim R (accessOutcome (call s.cfg) n s) (accessOutcome (call t.cfg) n t)
  setFs : ∀ {s t} (f : FsCode), R s t → R (s.setFs f) (t.setFs f)
  setInitOk : ∀ {s t} (b : Bool), R s t → R (s.setInitOk b) (t.setInitOk b)
  accept : ∀ {s t}, R s t → R s.accept t.accept
  respond : ∀ {s t} (r : Resp), R s t → R (s.respond r) (t.respond r)

namespace Preserved

variable {R : State → State → Prop} (hR : Preserved R) {s t : State}
include hR

theorem memRead_sim (h : R s t) (r : Byte) (n : Nat) : Run.Sim R (memRead r n s) (memRead r n t) := by
  rw [memRead_eq, memRead_eq]
  exact hR.access (readCall · r n) n h

theorem memWrite_sim (h : R s t) (r v : Byte) : Run.Sim R (memWrite r v s) (memWrite r v t) := by
  rw [memWrite_eq, memWrite_eq]
  exact (hR.access (writeCall · r v) 0 h).andThen fun _ _ _ h => .ok () h

theorem setField_sim (h : R s t) (reg mask : Byte) (pos : Nat) (val : Byte) :
    Run.Sim R (setField reg mask pos val s) (setField reg mask pos val t) :=
  (hR.memRead_sim h reg 1).andThen fun _ _ _ h => hR.memWrite_sim h reg _

theorem verifyStep_sim (h : R s t) : Run.Sim R (verifyStep s) (verifyStep t) := by
  refine (hR.memRead_sim h regId 1).andThen fun rx s t h => ?_
  by_cases hid : rx.b0 = idExpect
  · simpa only [if_pos hid] using .ok () h
  · simpa only [if_neg hid] using .raised .deviceMismatch h

theorem setRateStep_sim (h : R s t) (mode : BitVec 4) : Run.Sim R (setRateStep mode s) (setRateStep mode t) := by
  obtain ⟨b, hb⟩ := hR.cfg h
  simpa only [setRateStep, hb] using hR.setField_sim h s.cfg.regCtrlRate rateMask ratePos (mode.setWidth 8)

theorem setFsStep_sim (h : R s t) (fs : FsCode) : Run.Sim R (setFsStep fs s) (setFsStep fs t) := by
  obtain ⟨b, hb⟩ := hR.cfg h
  have hw := hR.setField_sim h s.cfg.regCtrlScale fsMask fsPos (fs.setWidth 8)
  simpa only [setFsStep, hb] using hw.andThen fun _ _ _ h => .ok () (hR.setFs fs h)

theorem setSpi4Step_sim (h : R s t) : Run.Sim R (setSpi4Step s) (setSpi4Step t) := by
  obtain ⟨b, hb⟩ := hR.cfg h
  simpa only [setSpi4Step, simMask, hb] using
    hR.setField_sim h s.cfg.regCtrlSim (simMask s.cfg) s.cfg.simBit.val (s.cfg.simFourWire.setWidth 8)

theorem forceFourWireStep_sim (h : R s t) (hb : t.cfg.bus = s.cfg.bus) :
    Run.Sim R (forceFourWireStep s) (forceFourWireStep t) := by
  unfold forceFourWireStep
  rw [hb]
  cases s.cfg.bus with
  | i2c => exact .ok () h
  | spi => exact hR.setSpi4Step_sim h

/-- `INIT` has the same steps only on the same bus (rule R128). -/
theorem initSteps_sim (h : R s t) (hb : t.cfg.bus = s.cfg.bus) (fs : FsCode) :
    Run.Sim R (initSteps fs s) (initSteps fs t) :=
  (hR.forceFourWireStep_sim (hR.setInitOk false h) hb).andThen fun _ _ _ h =>
    (hR.verifyStep_sim h).andThen fun _ _ _ h =>
    (hR.setRateStep_sim h rateOn).andThen fun _ _ _ h =>
    (hR.setFsStep_sim h fs).andThen fun _ _ _ h => .ok () (hR.setInitOk true h)

theorem stepList_sim (h : R s t) (i : Instr) (hb : (∃ f, i = .init f) → t.cfg.bus = s.cfg.bus) :
    Run.Sim R (stepList i s) (stepList i t) := by
  cases i with
  | rdreg reg len => exact (hR.memRead_sim h reg len.toNat).andThen fun rx _ _ h => .ok (readResp len rx) h
  | wrreg reg data => exact (hR.memWrite_sim h reg data).respondOk
  | verify => exact (hR.verifyStep_sim h).respondOk
  | setrate mode => exact (hR.setRateStep_sim h mode).respondOk
  | pwron => exact (hR.setRateStep_sim h rateOn).respondOk
  | pwroff => exact (hR.setRateStep_sim h rateOff).respondOk
  | setfs fs => exact (hR.setFsStep_sim h fs).respondOk
  | setspi mode => exact (hR.setSpi4Step_sim h).respondOk
  | init fs => exact (hR.initSteps_sim h (hb ⟨fs, rfl⟩) fs).respondOk
  | sample =>
    refine (hR.memRead_sim h regOutXL burstLen).andThen fun rx s t h => ?_
    obtain ⟨b, hc⟩ := hR.cfg h
    simpa only [hc, hR.fs h] using .ok (sampleResp s.cfg.frac.val s.fs rx) h

theorem finish_sim {q r : Run Resp} (h : Run.Sim R q r) : R q.finish r.finish := by
  cases h with
  | ok a h => exact hR.respond a h
  | raised st h => exact hR.respond (bareResp st) h
  | hung h => exact h

/-- A command admitted alike in related states ends in related states. -/
theorem exec_sim (h : R s t) {i : Instr} (ha : admission i t = admission i s)
    (hb : (∃ f, i = .init f) → t.cfg.bus = s.cfg.bus) :
    ∃ s' t', exec i s = .next s' ∧ exec i t = .next t' ∧ R s' t' := by
  cases hs : admission i s with
  | some st =>
    have hrefuse : R (s.refuse st) (t.refuse st) := hR.respond (bareResp st) (hR.accept h)
    exact ⟨_, _, exec_of_refused hs, exec_of_refused (ha.trans hs), hrefuse⟩
  | none =>
    exact ⟨_, _, exec_of_admitted hs, exec_of_admitted (ha.trans hs), hR.finish_sim (hR.stepList_sim (hR.accept h) i hb)⟩

end Preserved

/-! ### The two buses -/

/-- The two states differ in `CFG.BUS`, and beside it only in what the host cannot tell apart from the bus events. -/
def BusTwin (s t : State) : Prop := (∃ b, t.cfg = { s.cfg with bus := b }) ∧ s.looksLike t

theorem State.looksLike.answerAt_eq {s t : State} (h : s.looksLike t) (k : Nat) : t.answerAt k = s.answerAt k := by
  obtain ⟨-, -, -, -, -, horacle, hcalls⟩ := h
  simp only [State.answerAt, horacle, hcalls]

theorem BusTwin.accessed {s t : State} (h : BusTwin s t) (es fs : List Event) :
    BusTwin (s.accessed es) (t.accessed fs) := by
  obtain ⟨hcfg, hresp, hfs, hinit, hact, hinbox, horacle, hcalls⟩ := h
  exact ⟨hcfg, hresp, hfs, hinit, hact, hinbox, congrArg (List.drop 1) horacle, congrArg (· + 1) hcalls⟩

theorem BusTwin.stuckIn {s t : State} (h : BusTwin s t) (c d : Call) : BusTwin (s.stuckIn c) (t.stuckIn d) := by
  obtain ⟨hcfg, hresp, hfs, hinit, -, hinbox, horacle, hcalls⟩ := h
  exact ⟨hcfg, hresp, hfs, hinit, by simp, hinbox, congrArg (List.drop 1) horacle, congrArg (· + 1) hcalls⟩

theorem BusTwin.access {s t : State} (h : BusTwin s t) (c d : Call) (n : Nat) :
    Run.Sim BusTwin (accessOutcome c n s) (accessOutcome d n t) := by
  unfold accessOutcome
  rw [h.2.answerAt_eq]
  cases s.answerAt 0 with
  | ok b => exact .ok b (h.accessed _ _)
  | fail => exact .raised .transport (h.accessed _ _)
  | never => exact .hung (h.stuckIn _ _)

theorem busTwin_preserved : Preserved BusTwin where
  cfg h := h.1
  fs h := h.2.2.1.symm
  access call n h := h.access _ _ n
  setFs f := fun ⟨hcfg, hresp, _, rest⟩ => ⟨hcfg, hresp, rfl, rest⟩
  setInitOk b := fun ⟨hcfg, hresp, hfs, _, rest⟩ => ⟨hcfg, hresp, hfs, rfl, rest⟩
  accept := fun ⟨hcfg, _, rest⟩ => ⟨hcfg, rfl, rest⟩
  respond r := fun ⟨hcfg, _, hfs, hinit, _, rest⟩ => ⟨hcfg, rfl, hfs, hinit, by simp, rest⟩

theorem State.onBus_busTwin (s : State) (b c : Bus) : BusTwin (s.onBus b) (s.onBus c) :=
  ⟨⟨c, rfl⟩, rfl, rfl, rfl, Iff.rfl, rfl, rfl, rfl⟩

/-- A register that SPI reaches is a register that I2C reaches (rule R7). -/
theorem wellFormed_i2c_of_spi {i : Instr} (h : i.wellFormed .spi = true) : i.wellFormed .i2c = true := by
  cases i with
  | rdreg reg len => simp_all [Instr.wellFormed, Bus.reaches]
  | wrreg reg data => rfl
  | _ => exact h

theorem wellFormed_of_spi {i : Instr} (h : i.wellFormed .spi = true) (b : Bus) : i.wellFormed b = true := by
  cases b with
  | i2c => exact wellFormed_i2c_of_spi h
  | spi => exact h

theorem unsupported_of_sameSteps {i : Instr} (h : sameSteps i = true) (b : Bus) : unsupported b i = false := by
  cases i with
  | setspi mode => exact absurd h (by simp [sameSteps])
  | _ => rfl

theorem admission_of_wellFormed {i : Instr} {s : State} (hw : i.wellFormed s.cfg.bus = true)
    (hu : unsupported s.cfg.bus i = false) :
    admission i s = if needsReady i && !s.initOk then some .notReady else none := by
  simp [admission, (checkOperands_eq_none_iff _ _).2 hw, hu]

/-- Settles O51: the two blocks stay twins through every access, and are admitted alike. -/
theorem busesAgree : Obligations.BusesAgree := by
  intro i s t u hs hw ht hu
  have hadm : ∀ b, admission i (s.onBus b) = if needsReady i && !s.initOk then some .notReady else none := fun b =>
    admission_of_wellFormed (wellFormed_of_spi hw _) (unsupported_of_sameSteps hs _)
  have hnotInit : ¬∃ f, i = .init f := by
    rintro ⟨f, rfl⟩
    simp [sameSteps] at hs
  obtain ⟨t', u', ht', hu', h⟩ := busTwin_preserved.exec_sim (s.onBus_busTwin .i2c .spi)
    ((hadm .spi).trans (hadm .i2c).symm) fun hi => absurd hi hnotInit
  cases ht.symm.trans ht'
  cases hu.symm.trans hu'
  exact h.2

/-! ### The record `TRACE` -/

/-- `t` is `s` with the past `p` of its record replaced by `q`. -/
def Retraced (p q : List Event) (s t : State) : Prop :=
  ∃ evs, s.trace = p ++ evs ∧ t = { s with trace := q ++ evs }

theorem retraced_access {p q : List Event} {s t : State} (h : Retraced p q s t) (c : Call) (n : Nat) :
    Run.Sim (Retraced p q) (accessOutcome c n s) (accessOutcome c n t) := by
  obtain ⟨evs, hs, rfl⟩ := h
  have haccessed : ∀ es, Retraced p q (s.accessed es) (State.accessed { s with trace := q ++ evs } es) := fun es =>
    ⟨evs ++ es, by simp [hs], by simp [State.accessed, State.restLevel]⟩
  have hstuck : Retraced p q (s.stuckIn c) (State.stuckIn { s with trace := q ++ evs } c) :=
    ⟨evs ++ openEvents s.cfg, by simp [hs], by simp [State.stuckIn, State.callLevel]⟩
  have hanswer : State.answerAt { s with trace := q ++ evs } 0 = s.answerAt 0 := rfl
  unfold accessOutcome
  rw [hanswer]
  cases s.answerAt 0 with
  | ok b => exact .ok b (haccessed _)
  | fail => exact .raised .transport (haccessed _)
  | never => exact .hung hstuck

theorem Retraced.cfg_eq {p q : List Event} {s t : State} (h : Retraced p q s t) : t.cfg = s.cfg := by
  obtain ⟨evs, -, rfl⟩ := h
  rfl

theorem retraced_preserved (p q : List Event) : Preserved (Retraced p q) where
  cfg h := ⟨_, h.cfg_eq⟩
  fs := fun ⟨_, _, ht⟩ => ht ▸ rfl
  access call n h := by
    rw [h.cfg_eq]
    exact retraced_access h _ n
  setFs f := fun ⟨evs, hs, ht⟩ => ⟨evs, hs, ht ▸ rfl⟩
  setInitOk b := fun ⟨evs, hs, ht⟩ => ⟨evs, hs, ht ▸ rfl⟩
  accept := fun ⟨evs, hs, ht⟩ => ⟨evs, hs, ht ▸ rfl⟩
  respond r := fun ⟨evs, hs, ht⟩ => ⟨evs, hs, ht ▸ rfl⟩

/-- Settles O52: by `exec_framed` the record grew, and every other past gives the same new events. -/
theorem traceIsOnlyARecord : Obligations.TraceIsOnlyARecord := by
  intro i s t h
  obtain ⟨evs, hevs⟩ := (exec_framed h).trace
  refine ⟨evs, hevs.symm, fun tr => ?_⟩
  have hstart : Retraced s.trace tr s { s with trace := tr } := ⟨[], by simp, by simp⟩
  obtain ⟨t', u, ht', hu, evs', htrace, rfl⟩ := (retraced_preserved s.trace tr).exec_sim hstart (i := i) rfl fun _ => rfl
  cases h.symm.trans ht'
  obtain rfl : evs = evs' := List.append_cancel_left (hevs.trans htrace)
  exact hu

/-! ### The reply bytes a command did not ask for -/

/-- `s` with the answers to come replaced by an `Ok` and the later ones. -/
def State.answering (s : State) (b : Bytes6) (as : List Answer) : State := { s with oracle := .ok b :: as }

section
variable {b c : Bytes6}

theorem sameFirst.b0_eq (h : sameFirst 1 b c) : b.b0 = c.b0 := by
  simpa [sameFirst, bytesList] using h

theorem bytesList_injective : Function.Injective bytesList := by
  rintro ⟨⟩ ⟨⟩ h
  simpa [bytesList] using h

theorem sameFirst.eq_of_six (h : sameFirst 6 b c) : b = c := bytesList_injective h

theorem keepBytes_of_sameFirst {n : Nat} (h : sameFirst n b c) : keepBytes n b = keepBytes n c := by
  have hget : ∀ k, k < n → (bytesList b)[k]? = (bytesList c)[k]? := fun k hk => by
    rw [← List.getElem?_take_of_lt hk, h, List.getElem?_take_of_lt hk]
  have hbyte : ∀ k x y, (bytesList b)[k]? = some x → (bytesList c)[k]? = some y →
      (if k < n then x else 0) = if k < n then y else 0 := fun k x y hx hy => by
    by_cases hk : k < n
    · rw [Option.some.inj (hx.symm.trans ((hget k hk).trans hy))]
    · rw [if_neg hk, if_neg hk]
  unfold keepBytes
  congr 1
  exacts [hbyte 0 _ _ rfl rfl, hbyte 1 _ _ rfl rfl, hbyte 2 _ _ rfl rfl, hbyte 3 _ _ rfl rfl, hbyte 4 _ _ rfl rfl,
    hbyte 5 _ _ rfl rfl]

/-- After a first read the states are the same, so what follows differs by the unasked bytes alone. -/
theorem memRead_andThen_answering {α : Type} {n : Nat} {f : Bytes6 → State → Run α} (s : State) (as : List Answer)
    (r : Byte) (h : sameFirst n b c) (hf : f b = f c) :
    (memRead r n (s.answering b as)).andThen f = (memRead r n (s.answering c as)).andThen f := by
  have hread : ∀ x, memRead r n (s.answering x as) = .ok x ((s.answering x as).accessed (readOk s.cfg r n x)) := fun x =>
    memRead_of_ok r n (State.answerAt_zero_cons _ _ as rfl)
  have hev : readOk s.cfg r n b = readOk s.cfg r n c := congrArg (fun l => frameEvents _ _ (.ok l)) h
  rw [hread b, hread c, hev, Run.ok_andThen, Run.ok_andThen, hf]
  rfl

theorem memWrite_answering (s : State) (as : List Answer) (r v : Byte) :
    memWrite r v (s.answering b as) = memWrite r v (s.answering c as) := by
  have hwrite : ∀ x, memWrite r v (s.answering x as) = .ok () ((s.answering x as).accessed (writeOk s.cfg r v)) := fun x =>
    memWrite_of_ok r v (State.answerAt_zero_cons _ _ as rfl)
  rw [hwrite b, hwrite c]
  rfl

theorem setField_answering (s : State) (as : List Answer) (reg mask : Byte) (pos : Nat) (val : Byte)
    (h : sameFirst 1 b c) : setField reg mask pos val (s.answering b as) = setField reg mask pos val (s.answering c as) :=
  memRead_andThen_answering s as reg h (by rw [h.b0_eq])

theorem verifyStep_answering (s : State) (as : List Answer) (h : sameFirst 1 b c) :
    verifyStep (s.answering b as) = verifyStep (s.answering c as) :=
  memRead_andThen_answering s as regId h (by rw [h.b0_eq])

theorem setFsStep_answering (s : State) (as : List Answer) (f : FsCode) (h : sameFirst 1 b c) :
    setFsStep f (s.answering b as) = setFsStep f (s.answering c as) :=
  congrArg (Run.andThen · _) (setField_answering s as _ _ _ _ h)

theorem forceFourWireStep_of_i2c {s : State} (h : s.cfg.bus = .i2c) : forceFourWireStep s = .ok () s := by
  simp [forceFourWireStep, h]

theorem forceFourWireStep_of_spi {s : State} (h : s.cfg.bus = .spi) : forceFourWireStep s = setSpi4Step s := by
  simp [forceFourWireStep, h]

/-- The first access of `INIT` is that of its step 0 on SPI and the identity read on I2C (rule R128). -/
theorem initSteps_answering (s : State) (as : List Answer) (f : FsCode) (h : sameFirst 1 b c) :
    initSteps f (s.answering b as) = initSteps f (s.answering c as) := by
  have hstart : ∀ x, (s.answering x as).setInitOk false = (s.setInitOk false).answering x as := fun _ => rfl
  unfold initSteps
  rw [hstart b, hstart c]
  cases hb : s.cfg.bus with
  | i2c =>
    have hskip : ∀ x, forceFourWireStep ((s.setInitOk false).answering x as) =
        .ok () ((s.setInitOk false).answering x as) := fun _ => forceFourWireStep_of_i2c hb
    rw [hskip b, hskip c, Run.ok_andThen, Run.ok_andThen, verifyStep_answering _ as h]
  | spi =>
    have hfield : ∀ x, forceFourWireStep ((s.setInitOk false).answering x as) =
        setSpi4Step ((s.setInitOk false).answering x as) := fun _ => forceFourWireStep_of_spi hb
    rw [hfield b, hfield c]
    exact congrArg (Run.andThen · _) (setField_answering (s.setInitOk false) as _ _ _ _ h)

theorem stepList_answering (i : Instr) (s : State) (as : List Answer) (h : sameFirst (bytesRead i) b c) :
    stepList i (s.answering b as) = stepList i (s.answering c as) := by
  cases i with
  | rdreg reg len =>
    have hkeep : keepBytes len.toNat b = keepBytes len.toNat c := keepBytes_of_sameFirst h
    exact memRead_andThen_answering s as reg h (by simp only [readResp, hkeep])
  | wrreg reg data => exact congrArg respondOk (memWrite_answering s as reg data)
  | verify => exact congrArg respondOk (verifyStep_answering s as h)
  | setrate mode => exact congrArg respondOk (setField_answering s as _ _ _ _ h)
  | pwron => exact congrArg respondOk (setField_answering s as _ _ _ _ h)
  | pwroff => exact congrArg respondOk (setField_answering s as _ _ _ _ h)
  | setfs fs => exact congrArg respondOk (setFsStep_answering s as fs h)
  | setspi mode => exact congrArg respondOk (setField_answering s as _ _ _ _ h)
  | init fs => exact congrArg respondOk (initSteps_answering s as fs h)
  | sample => exact memRead_andThen_answering s as regOutXL h (by rw [h.eq_of_six])

end

/-- Settles O54: a refused command makes no access, and an admitted one leaves the same state for both answers. -/
theorem unaskedBytesAreNotRead : Obligations.UnaskedBytesAreNotRead := by
  intro i s t b c as hbc h
  change exec i (s.answering b as) = .next t at h
  change ∃ u, exec i (s.answering c as) = .next u ∧ _
  have ha : admission i (s.answering c as) = admission i (s.answering b as) := rfl
  cases hb : admission i (s.answering b as) with
  | some st =>
    cases (exec_of_refused hb).symm.trans h
    exact ⟨_, exec_of_refused (ha.trans hb), rfl⟩
  | none =>
    refine ⟨t, ?_, rfl⟩
    rw [← h, exec_of_admitted hb, exec_of_admitted (ha.trans hb)]
    exact congrArg (fun r => Host.Outcome.next (Run.finish r)) (stepList_answering i s.accept as hbc).symm

end Sys2Proof.Machine

/-! PROOFS. The state and its invariant (10_state.md): what reset leaves, that every step goes on and keeps the bus and the
response port in order, when a command is not ready, and what `INIT_OK` says. -/

namespace Sys2Proof.Machine

/-! ### Reset, totality and the response port -/

/-- Settles O21: every value is the one `State.resetWith` writes. -/
theorem resetState : Obligations.ResetState :=
  fun _ => ⟨rfl, rfl, rfl, rfl, rfl, rfl, rfl, rfl, rfl, rfl, rfl⟩

theorem exec_goes_on (i : Instr) (s : State) : ∃ t, exec i s = .next t := by
  cases ha : admission i s with
  | some st => exact ⟨_, exec_of_refused ha⟩
  | none => exact ⟨_, exec_of_admitted ha⟩

theorem step_of_undecoded {s : State} {w : CmdWord} {e : Reject} (h : s.presented = some w)
    (hd : decodeWord w = .error e) : step s = .next (s.take.refusedWith .badCommand) := by
  simp only [step, h, hd]
  rfl

/-- Settles O43: a step waits, refuses its word or runs a command, and `exec_goes_on`. -/
theorem everyStepGoesOn : Obligations.EveryStepGoesOn := by
  intro s
  cases hp : s.presented with
  | none => exact ⟨s, step_of_presented_none hp⟩
  | some w =>
    cases hd : decodeWord w with
    | error e => exact ⟨_, step_of_undecoded hp hd⟩
    | ok i =>
      rw [step_of_decoded hp hd]
      exact exec_goes_on i s.take

/-- Settles O53: admission does not read the response port, and a refusal overwrites it as an acceptance clears it. -/
theorem earlierResponseHasNoEffect : Obligations.EarlierResponseHasNoEffect := by
  intro i s r
  have hadm : admission i { s with resp := r } = admission i s := rfl
  have haccept : State.accept { s with resp := r } = s.accept := rfl
  cases ha : admission i s with
  | some st =>
    rw [exec_of_refused ha, exec_of_refused (hadm.trans ha)]
    rfl
  | none => rw [exec_of_admitted ha, exec_of_admitted (hadm.trans ha), haccept]

/-! ### Readiness (rules R22, R174) -/

theorem needsReady_of_ne_init {i : Instr} (h : ∀ f, i ≠ .init f) : needsReady i = true := by
  cases i with
  | init f => exact absurd rfl (h f)
  | _ => rfl

/-- The one unsupported command is `SETSPI`, but for four-wire on SPI (rule R124). -/
theorem unsupported_eq_false {b : Bus} {i : Instr} (h : ∀ m, i = .setspi m → b = .spi ∧ m = .fourWire) :
    unsupported b i = false := by
  cases i with
  | setspi m =>
    obtain ⟨rfl, rfl⟩ := h m rfl
    rfl
  | _ => rfl

/-- Settles O28: the operand and variant checks pass, so the ready check is the first that fails. -/
theorem notReadyIsRefused : Obligations.NotReadyIsRefused := by
  intro s i hinit hi hw hsetspi
  apply exec_of_refused
  rw [admission_of_wellFormed hw (unsupported_eq_false hsetspi)]
  simp [needsReady_of_ne_init hi, hinit]

/-! ### What `INIT_OK` says (rules R22, R128) -/

theorem transport_mem_frameEvents (c : Cfg) (call : Call) (res : CallResult) :
    .transport call res ∈ frameEvents c call res := by
  cases hb : c.bus <;> simp [frameEvents, hb]

theorem transport_mem_accessEvents {c : Cfg} {ps : List Access} {p : Access} (h : p ∈ ps) :
    .transport p.1 p.2 ∈ accessEvents c ps :=
  List.mem_flatMap.2 ⟨p, h, transport_mem_frameEvents c p.1 p.2⟩

/-- The events of a command are those of its accesses. -/
theorem Trail.new_events {i : Instr} {s u : State} {ps : List Access} (h : Trail (startOf i s) u ps) :
    u.trace.drop s.trace.length = accessEvents s.cfg ps := by
  simp [h.trace]

/-- Settles O39: of the outcomes of `exec_cases` only success sets `INIT_OK` and `FS`, and only it answers `OK`. -/
theorem initOkMeansInitEndedOk : Obligations.InitOkMeansInitEndedOk := by
  intro s t f h
  obtain ⟨st, -, hni, -⟩ | ⟨u, ps, r, hu, -, hok, rfl⟩ | ⟨u, ps, q, -, -, -, hfs, hin, rfl⟩ |
    ⟨u, ps, -, -, hfs, hin, rfl⟩ | ⟨u, ps, c, hu, -, -, hfs, hin, rfl⟩ := exec_cases h
  · exact absurd rfl (hni f)
  · have hinit : u.initOk = true := hok.initOk
    have hread : .transport (readCall s.cfg 0x0F 1) (.ok [0x33]) ∈ u.trace.drop s.trace.length :=
      hu.new_events ▸ transport_mem_accessEvents (hok.identity f rfl)
    exact ⟨by simp [hinit, hok.status], fun _ => ⟨hok.fs, _, hread, rfl⟩, by simp [hinit]⟩
  · simp [hin, hfs, bareResp]
  · simp [hin, hfs, bareResp]
  · simp [hin, hfs, hu.resp]

/-! ### The record of a bus in order (rules R97, R98) -/

/-- The events of a block whose every bracket is closed and every frame legal, on the bus of `c`. -/
def recordInOrder (c : Cfg) (es : List Event) : Bool :=
  match c.bus with
  | .spi => bracketed es
  | .i2c => addressed c.devAddr es

theorem recordInOrder_of_spi {c : Cfg} (h : c.bus = .spi) (es : List Event) : recordInOrder c es = bracketed es := by
  simp [recordInOrder, h]

theorem recordInOrder_of_i2c {c : Cfg} (h : c.bus = .i2c) (es : List Event) :
    recordInOrder c es = addressed c.devAddr es := by
  simp [recordInOrder, h]

@[simp] theorem recordInOrder_nil (c : Cfg) : recordInOrder c [] = true := by
  cases hb : c.bus <;> simp [recordInOrder, hb, bracketed, addressed]

/-- Closed brackets leave the rest to be judged on its own. -/
theorem bracketed_append {es : List Event} (fs : List Event) (h : bracketed es = true) :
    bracketed (es ++ fs) = bracketed fs := by
  induction es using bracketed.induct with
  | case1 => rfl
  | case2 c res es ih =>
    simp only [bracketed, Bool.and_eq_true] at h
    obtain ⟨⟨hframe, hreply⟩, hes⟩ := h
    simp [bracketed, hframe, hreply, ih hes]
  | case3 es hne hopen => simp [bracketed] at h

theorem addressed_append {a : BitVec 7} {es : List Event} (fs : List Event) (h : addressed a es = true) :
    addressed a (es ++ fs) = addressed a fs := by
  induction es using addressed.induct with
  | case1 => rfl
  | case2 c res es ih =>
    simp only [addressed, Bool.and_eq_true] at h
    obtain ⟨⟨hframe, hreply⟩, hes⟩ := h
    simp [addressed, hframe, hreply, ih hes]
  | case3 es hne hcall => simp [addressed] at h

theorem recordInOrder_append {c : Cfg} {es : List Event} (fs : List Event) (h : recordInOrder c es = true) :
    recordInOrder c (es ++ fs) = recordInOrder c fs := by
  cases hb : c.bus with
  | spi =>
    rw [recordInOrder_of_spi hb] at h
    rw [recordInOrder_of_spi hb, recordInOrder_of_spi hb, bracketed_append fs h]
  | i2c =>
    rw [recordInOrder_of_i2c hb] at h
    rw [recordInOrder_of_i2c hb, recordInOrder_of_i2c hb, addressed_append fs h]

theorem recordInOrder_frameEvents {c : Cfg} {call : Call} {res : CallResult} (h : frameFits c call)
    (hr : replyFits call res = true) : recordInOrder c (frameEvents c call res) = true := by
  cases hb : c.bus with
  | spi =>
    have hframe : call.spiFrame = true := by simpa [frameFits, hb] using h
    simp [recordInOrder, frameEvents, hb, bracketed, hframe, hr]
  | i2c =>
    have hframe : call.i2cFrame c.devAddr = true := by simpa [frameFits, hb] using h
    simp [recordInOrder, frameEvents, hb, addressed, hframe, hr]

theorem recordInOrder_accessEvents {c : Cfg} {ps : List Access}
    (h : ∀ p ∈ ps, frameFits c p.1 ∧ replyFits p.1 p.2 = true) : recordInOrder c (accessEvents c ps) = true := by
  induction ps with
  | nil => exact recordInOrder_nil c
  | cons p ps ih =>
    obtain ⟨⟨hframe, hreply⟩, hps⟩ := List.forall_mem_cons.1 h
    have hsplit : accessEvents c (p :: ps) = frameEvents c p.1 p.2 ++ accessEvents c ps := rfl
    rw [hsplit, recordInOrder_append _ (recordInOrder_frameEvents hframe hreply), ih hps]

/-! ### The invariant (rules R23, R70, R99, R211) -/

/-- The line and the record as an idle block has them: the line high and every bracket closed. -/
structure State.AtRest (s : State) : Prop where
  activity : s.activity = .idle
  csLevel : s.csLevel = .high
  record : recordInOrder s.cfg s.trace = true

theorem State.atRest_iff {s : State} (h : s.activity = .idle) : s.AtRest ↔ s.busInOrder := by
  have hsplit : s.AtRest ↔ s.csLevel = .high ∧ recordInOrder s.cfg s.trace = true :=
    ⟨fun k => ⟨k.csLevel, k.record⟩, fun k => ⟨h, k.1, k.2⟩⟩
  rw [hsplit]
  cases hb : s.cfg.bus <;> simp [State.busInOrder, recordInOrder, hb, h]

theorem State.AtRest.busInOrder {s : State} (h : s.AtRest) : s.busInOrder := (State.atRest_iff h.activity).1 h

theorem State.AtRest.restLevel {s : State} (h : s.AtRest) : s.restLevel = .high := by
  cases hb : s.cfg.bus <;> simp [State.restLevel, hb, h.csLevel]

theorem State.AtRest.startOf {s : State} (h : s.AtRest) (i : Instr) : (startOf i s).AtRest where
  activity := by simp [h.activity]
  csLevel := by simp [h.csLevel]
  record := by simp [h.record]

/-- Accesses that returned leave the line high and their brackets closed (rules R97, R99). -/
theorem Trail.atRest {s u : State} {ps : List Access} (h : Trail s u ps) (hs : s.AtRest) : u.AtRest where
  activity := h.activity.trans hs.activity
  csLevel := by simp [h.csLevel, hs.csLevel, hs.restLevel]
  record := by
    rw [h.cfg, h.trace, recordInOrder_append _ hs.record]
    exact recordInOrder_accessEvents h.fits

/-- A call that never returns leaves its bracket unclosed on SPI, and has none on I2C (rules R97, R98). -/
theorem State.AtRest.stuckIn_busInOrder {s : State} (h : s.AtRest) {c : Call} (hc : frameFits s.cfg c) :
    (s.stuckIn c).busInOrder := by
  have hrec := h.record
  cases hb : s.cfg.bus with
  | spi =>
    have hframe : c.spiFrame = true := by simpa [frameFits, hb] using hc
    rw [recordInOrder_of_spi hb] at hrec
    simpa [State.busInOrder, hb, State.callLevel, openEvents, hframe] using hrec
  | i2c =>
    have hframe : c.i2cFrame s.cfg.devAddr = true := by simpa [frameFits, hb] using hc
    rw [recordInOrder_of_i2c hb] at hrec
    simpa [State.busInOrder, hb, State.callLevel, openEvents, hframe, h.csLevel] using hrec

/-- A block at rest that presents a response in order. -/
theorem State.AtRest.respond_inv {s : State} (h : s.AtRest) {r : Resp} (hr : r.inOrder) : (s.respond r).Inv := by
  have hrest : (s.respond r).AtRest := ⟨rfl, h.csLevel, h.record⟩
  refine ⟨hrest.busInOrder, ?_, fun hne => absurd rfl hne⟩
  rintro _ ⟨⟩
  exact hr

theorem State.AtRest.stuckIn_inv {s : State} (h : s.AtRest) (hresp : s.resp = none) {c : Call}
    (hc : frameFits s.cfg c) : (s.stuckIn c).Inv :=
  ⟨h.stuckIn_busInOrder hc, by simp [hresp], fun _ => hresp⟩

theorem State.AtRest.refusedWith_inv {s : State} (h : s.AtRest) (st : Status) : (s.refusedWith st).Inv :=
  h.respond_inv (bareResp_inOrder st)

/-- Each outcome of `exec_cases` leaves a block at rest that responds, or one call that never returned. -/
theorem exec_inv {i : Instr} {s t : State} (hs : s.AtRest) (h : exec i s = .next t) : t.Inv := by
  have hstart := hs.startOf i
  obtain ⟨st, -, -, rfl⟩ | ⟨u, ps, r, hu, -, hok, rfl⟩ | ⟨u, ps, q, hu, -, -, -, -, rfl⟩ |
    ⟨u, ps, hu, -, -, -, rfl⟩ | ⟨u, ps, c, hu, -, hc, -, -, rfl⟩ := exec_cases h
  · exact hs.refusedWith_inv st
  · exact (hu.atRest hstart).respond_inv hok.inOrder
  · exact (hu.atRest hstart).respond_inv (bareResp_inOrder .transport)
  · exact (hu.atRest hstart).respond_inv (bareResp_inOrder .deviceMismatch)
  · have hcfg : u.cfg = s.cfg := hu.cfg.trans (startOf_cfg i s)
    have hresp : u.resp = none := hu.resp.trans (startOf_resp i s)
    exact (hu.atRest hstart).stuckIn_inv hresp (hcfg ▸ hc)

/-- Only an idle block takes a word (rule R10). -/
theorem State.activity_of_presented {s : State} {w : CmdWord} (h : s.presented = some w) : s.activity = .idle := by
  cases ha : s.activity with
  | idle => rfl
  | waiting c => simp [State.presented_of_waiting ha] at h

/-- Settles O49: a block that takes a word is at rest, so its refusal and its command keep the invariant; any other step
changes nothing. -/
theorem stepKeepsInv : Obligations.StepKeepsInv := by
  rintro s t ⟨hbus, hport⟩ h
  cases hp : s.presented with
  | none =>
    cases (step_of_presented_none hp).symm.trans h
    exact ⟨hbus, hport⟩
  | some w =>
    have hrest : s.AtRest := (State.atRest_iff (State.activity_of_presented hp)).2 hbus
    have htake : s.take.AtRest := ⟨hrest.activity, hrest.csLevel, hrest.record⟩
    cases hd : decodeWord w with
    | error e =>
      cases (step_of_undecoded hp hd).symm.trans h
      exact htake.refusedWith_inv .badCommand
    | ok i =>
      rw [step_of_decoded hp hd] at h
      exact exec_inv htake h

theorem State.resetWith_inv (c : Cfg) : (State.resetWith c).Inv := by
  have hrest : (State.resetWith c).AtRest := ⟨rfl, rfl, recordInOrder_nil c⟩
  exact ⟨hrest.busInOrder, fun _ hr => absurd hr nofun, fun _ => rfl⟩

/-- Settles O50: reset leaves the block at rest with no response. -/
theorem resetHasInv : Obligations.ResetHasInv := ⟨State.resetWith_inv _, State.resetWith_inv⟩

end Sys2Proof.Machine

/-! PROOFS. The encoding (30_encoding.md): the command word field by field, the decoder's table, the round trips between
words and commands, the words and operands that are refused, the status codes and the frame bytes. -/

namespace Sys2Proof

/-! ### The word, field by field (rule R60) -/

/-- `Z` = `CW[7:4]`, the field that no command uses (rule R60). -/
def fieldZ (w : CmdWord) : BitVec 4 := w.extractLsb' 4 4

@[simp] theorem fieldZ_packWord (op len : BitVec 4) (reg data : Byte) (arg : BitVec 4) :
    fieldZ (packWord op len reg data arg) = 0 := Laws.OpField.packWord_z op len reg data arg

section
variable (v w : CmdWord)

theorem fieldOp_and : fieldOp (v &&& w) = fieldOp v &&& fieldOp w := BitVec.extractLsb'_and
theorem fieldLen_and : fieldLen (v &&& w) = fieldLen v &&& fieldLen w := BitVec.extractLsb'_and
theorem fieldReg_and : fieldReg (v &&& w) = fieldReg v &&& fieldReg w := BitVec.extractLsb'_and
theorem fieldData_and : fieldData (v &&& w) = fieldData v &&& fieldData w := BitVec.extractLsb'_and
theorem fieldZ_and : fieldZ (v &&& w) = fieldZ v &&& fieldZ w := BitVec.extractLsb'_and
theorem fieldArg_and : fieldArg (v &&& w) = fieldArg v &&& fieldArg w := BitVec.extractLsb'_and

theorem append_fields :
    fieldOp w ++ fieldLen w ++ fieldReg w ++ fieldData w ++ fieldZ w ++ fieldArg w = w := by
  ext k hk
  simp only [fieldOp, fieldLen, fieldReg, fieldData, fieldZ, fieldArg, BitVec.getElem_append, BitVec.getElem_extractLsb']
  grind

theorem eq_iff_fields : v = w ↔ fieldOp v = fieldOp w ∧ fieldLen v = fieldLen w ∧ fieldReg v = fieldReg w ∧
    fieldData v = fieldData w ∧ fieldZ v = fieldZ w ∧ fieldArg v = fieldArg w := by
  constructor
  · rintro rfl
    exact ⟨rfl, rfl, rfl, rfl, rfl, rfl⟩
  · rintro ⟨hop, hlen, hreg, hdata, hz, harg⟩
    rw [← append_fields v, hop, hlen, hreg, hdata, hz, harg, append_fields w]

/-- A word selects a row when each of its fields holds the row's pattern where the mask has ones (rule R64). -/
theorem Row.selects_iff_fields (r : Row) : r.selects w = true ↔
    fieldOp w &&& fieldOp r.mask = fieldOp r.pattern ∧ fieldLen w &&& fieldLen r.mask = fieldLen r.pattern ∧
    fieldReg w &&& fieldReg r.mask = fieldReg r.pattern ∧ fieldData w &&& fieldData r.mask = fieldData r.pattern ∧
    fieldZ w &&& fieldZ r.mask = fieldZ r.pattern ∧ fieldArg w &&& fieldArg r.mask = fieldArg r.pattern := by
  rw [Row.selects, beq_iff_eq, eq_iff_fields, fieldOp_and, fieldLen_and, fieldReg_and, fieldData_and, fieldZ_and,
    fieldArg_and]

theorem packWord_eq_iff (op len : BitVec 4) (reg data : Byte) (arg : BitVec 4) : packWord op len reg data arg = w ↔
    fieldOp w = op ∧ fieldLen w = len ∧ fieldReg w = reg ∧ fieldData w = data ∧ fieldZ w = 0 ∧ fieldArg w = arg := by
  rw [eq_comm, eq_iff_fields, fieldOp_packWord, fieldLen_packWord, fieldReg_packWord, fieldData_packWord, fieldZ_packWord,
    fieldArg_packWord]

/-! ### The operands that are a part of `ARG` (rule R62) -/

theorem fieldFs_eq : fieldFs w = (fieldArg w).extractLsb' 0 2 := by
  ext k hk
  simp [fieldFs, fieldArg]

theorem fieldSpiMode_eq : fieldSpiMode w = if (fieldArg w).getLsbD 0 then .threeWire else .fourWire := by
  simp [fieldSpiMode, fieldArg]

/-- `ARG` is the one of its full-scale code when `ARG[3:2]` is zero. -/
theorem fieldArg_eq_argOfFs_iff : fieldArg w = argOfFs (fieldFs w) ↔ fieldArg w &&& 0xC = 0 := by
  have h : ∀ a : BitVec 4, a = argOfFs (a.extractLsb' 0 2) ↔ a &&& 0xC = 0 := by decide
  rw [fieldFs_eq, ← h]

/-- `ARG` is the one of its SPI mode when `ARG[3:1]` is zero. -/
theorem fieldArg_eq_argOfSpiMode_iff : fieldArg w = argOfSpiMode (fieldSpiMode w) ↔ fieldArg w &&& 0xE = 0 := by
  have h : ∀ a : BitVec 4, a = argOfSpiMode (if a.getLsbD 0 then .threeWire else .fourWire) ↔ a &&& 0xE = 0 := by decide
  rw [fieldSpiMode_eq, ← h]

end

@[simp] theorem fieldFs_packWord (op len : BitVec 4) (reg data : Byte) (fs : FsCode) :
    fieldFs (packWord op len reg data (argOfFs fs)) = fs := by
  have h : ∀ f : FsCode, (argOfFs f).extractLsb' 0 2 = f := by decide
  rw [fieldFs_eq, fieldArg_packWord, h]

@[simp] theorem fieldSpiMode_packWord (op len : BitVec 4) (reg data : Byte) (mode : SpiMode) :
    fieldSpiMode (packWord op len reg data (argOfSpiMode mode)) = mode := by
  rw [fieldSpiMode_eq, fieldArg_packWord]
  cases mode <;> rfl

/-! ### The table (rule R64) -/

/-- A word selects a row exactly when it is the word of the command that the row reads from it: in every field a row's mask
leaves free just the bits of an operand, and its pattern holds the others as `encode` writes them. -/
theorem Row.selects_iff_encode {r : Row} (hr : r ∈ rows) (w : CmdWord) :
    r.selects w = true ↔ encode (r.operands w) = w := by
  have hones4 : ∀ a : BitVec 4, a &&& 15#4 = a := fun _ => BitVec.and_allOnes
  have hones8 : ∀ a : Byte, a &&& 255#8 = a := fun _ => BitVec.and_allOnes
  rw [Row.selects_iff_fields]
  simp only [rows, List.mem_cons, List.not_mem_nil, or_false] at hr
  obtain rfl | rfl | rfl | rfl | rfl | rfl | rfl | rfl := hr <;>
    simp only [encode, packWord_eq_iff, fieldArg_eq_argOfFs_iff, fieldArg_eq_argOfSpiMode_iff] <;>
    simp [fieldOp, fieldLen, fieldReg, fieldData, fieldZ, fieldArg, hones4, hones8]

theorem rows_masks_cover_op : ∀ r ∈ rows, fieldOp r.mask = BitVec.allOnes 4 := by decide

theorem rows_ops_nodup : (rows.map fun r => fieldOp r.pattern).Nodup := by decide

theorem fieldOp_of_selects {r : Row} (hr : r ∈ rows) {w : CmdWord} (h : r.selects w = true) :
    fieldOp r.pattern = fieldOp w := by
  have hmask : w &&& r.mask = r.pattern := by simpa [Row.selects] using h
  rw [← hmask, fieldOp_and, rows_masks_cover_op r hr, BitVec.and_allOnes]

theorem selects_of_find_eq_some {r : Row} {w : CmdWord} (h : rows.find? (·.selects w) = some r) :
    r ∈ rows ∧ r.selects w = true :=
  ⟨List.mem_of_find?_eq_some h, List.find?_some (p := fun q : Row => q.selects w) h⟩

/-- Settles O4: the rows a word selects have its operation code, of which each row has its own. -/
theorem rowsAreExclusive : Obligations.RowsAreExclusive := by
  intro w
  have hsame : ((rows.filter (·.selects w)).map fun r => fieldOp r.pattern) =
      List.replicate (rows.filter (·.selects w)).length (fieldOp w) :=
    List.map_eq_replicate_iff.2 fun r hr => by
      obtain ⟨hr, hw⟩ := List.mem_filter.1 hr
      exact fieldOp_of_selects hr hw
  have hnodup : ((rows.filter (·.selects w)).map fun r => fieldOp r.pattern).Nodup :=
    rows_ops_nodup.sublist (List.filter_sublist.map _)
  rw [hsame] at hnodup
  exact List.nodup_replicate.1 hnodup

/-- The row that a word selects is the one the decoder finds. -/
theorem decodeWord_of_selects {r : Row} (hr : r ∈ rows) {w : CmdWord} (h : r.selects w = true) :
    decodeWord w = .ok (r.operands w) := by
  cases hf : rows.find? (·.selects w) with
  | none => exact absurd h (List.find?_eq_none.1 hf r hr)
  | some q =>
    obtain ⟨hq, hsel⟩ := selects_of_find_eq_some hf
    have hop : fieldOp q.pattern = fieldOp r.pattern :=
      (fieldOp_of_selects hq hsel).trans (fieldOp_of_selects hr h).symm
    obtain rfl : q = r := List.inj_on_of_nodup_map rows_ops_nodup hq hr hop
    simp [decodeWord, hf]

/-! ### Round trips (rules R64, R66, R80) -/

/-- What decodes was read off a row that the word selects. -/
theorem row_of_decodeWord {w : CmdWord} {i : Instr} (h : decodeWord w = .ok i) :
    ∃ r ∈ rows, r.selects w = true ∧ r.operands w = i := by
  cases hf : rows.find? (·.selects w) with
  | none => simp [decodeWord, hf] at h
  | some r =>
    obtain ⟨hr, hsel⟩ := selects_of_find_eq_some hf
    exact ⟨r, hr, hsel, by simpa [decodeWord, hf] using h⟩

/-- Settles O3: the row that the word selects reads a command of this word. -/
theorem encodeOfDecode : Obligations.EncodeOfDecode := by
  intro w i h
  obtain ⟨r, hr, hw, rfl⟩ := row_of_decodeWord h
  exact (Row.selects_iff_encode hr w).1 hw

@[simp] theorem encode_expand (i : Instr) : encode i.expand = encode i := by cases i <;> rfl

/-- Some row reads from the word of `i` the command `i` expands to (rules R64, R80): each operand stands in the field that
`encode` puts it in. -/
theorem exists_row_operands_encode (i : Instr) : ∃ r ∈ rows, r.operands (encode i) = i.expand := by
  cases i <;> simp [rows, encode, Instr.expand]

/-- Settles O2: by `Row.selects_iff_encode` the row that reads the command back is selected by its word. -/
theorem decodeOfEncode : Obligations.DecodeOfEncode := by
  intro i
  obtain ⟨r, hr, hread⟩ := exists_row_operands_encode i
  have hsel : r.selects (encode i) = true := (Row.selects_iff_encode hr _).2 (by rw [hread, encode_expand])
  rw [decodeWord_of_selects hr hsel, hread]

/-- Settles O5: the two round trips. -/
theorem illegalWordsAreNoCommand : Obligations.IllegalWordsAreNoCommand := by
  intro w
  constructor
  · rintro ⟨e, he⟩ i rfl
    exact absurd (he.symm.trans (decodeOfEncode i)) (by simp)
  · intro h
    cases hd : decodeWord w with
    | error e => exact ⟨e, rfl⟩
    | ok i => exact absurd (encodeOfDecode w i hd) (h i)

end Sys2Proof

namespace Sys2Proof.Machine

/-! ### Words and operands that are refused (rules R65, R66) -/

/-- Settles O1, by running the decoder on each of the words. -/
theorem writtenWordsDecode : Obligations.WrittenWordsDecode := by
  unfold Obligations.WrittenWordsDecode
  decide

/-- An operand out of range is the first check that fails, ready or not (rules R65, R174). -/
theorem exec_of_not_wellFormed {i : Instr} {s : State} (h : i.wellFormed s.cfg.bus = false) :
    exec i s = .next (s.refusedWith .badCommand) := by
  have hcheck : (checkOperands s.cfg.bus i).isSome := by
    rw [Option.isSome_iff_ne_none, Ne, checkOperands_eq_none_iff, h]
    decide
  exact exec_of_refused (by simp [admission, hcheck])

theorem reaches_eq_false {b : Bus} {reg : Byte} (hb : b = .spi) (hr : 0x3F < reg.toNat) : b.reaches reg = false := by
  simpa [hb, Bus.reaches] using hr

/-- Settles O26: each of the operands is one that `Instr.wellFormed` rules out. -/
theorem badOperandIsBadCommand : Obligations.BadOperandIsBadCommand := by
  refine ⟨fun s reg len h => exec_of_not_wellFormed ?_, fun s reg data hb hr => exec_of_not_wellFormed ?_,
    fun s mode h => exec_of_not_wellFormed ?_⟩
  · obtain rfl | hlen | ⟨hb, hr⟩ := h
    · simp [Instr.wellFormed]
    · simp [Instr.wellFormed, Nat.not_le.2 hlen]
    · simp [Instr.wellFormed, reaches_eq_false hb hr]
  · exact reaches_eq_false hb hr
  · simpa [Instr.wellFormed] using h

/-- Settles O24: the step is the refusal of the taken word, and an idle block stays idle. -/
theorem illegalWordIsBadCommand : Obligations.IllegalWordIsBadCommand := by
  intro s w ws e hidle hbox hd
  have hp : s.presented = some w := by simp [State.presented_of_idle hidle, hbox]
  rw [step_of_undecoded hp hd]
  simp [State.refusedWith, State.take, hbox, hidle]

/-! ### Frame bytes and status codes (rules R71, R73, R78) -/

theorem getLsbD_bitByte_shiftLeft (b : Bool) (n : Nat) {k : Nat} (hk : k < 8) :
    (bitByte b <<< n).getLsbD k = (b && decide (k = n)) := by
  cases b with
  | false => simp [bitByte]
  | true =>
    rw [Bool.eq_iff_iff]
    simp [bitByte, hk]
    omega

theorem getLsbD_lowSix : ∀ k < 8, (0x3F#8).getLsbD k = decide (k < 6) := by decide

/-- Every bit of the first byte of a frame (rule R73). -/
theorem getLsbD_spiCmd (rd ms : Bool) (a : Byte) {k : Nat} (hk : k < 8) :
    (spiCmd rd ms a).getLsbD k = (rd && decide (k = 7) || ms && decide (k = 6) || a.getLsbD k && decide (k < 6)) := by
  simp only [spiCmd, BitVec.getLsbD_or, BitVec.getLsbD_and, getLsbD_bitByte_shiftLeft _ _ hk, getLsbD_lowSix k hk]

/-- Settles O8: `getLsbD_spiCmd` at bit 7, at bit 6 and below. -/
theorem spiCommandByteFields : Obligations.SpiCommandByteFields := by
  intro rd ms a
  refine ⟨?_, ?_, fun k hk => ?_⟩
  · simp only [getLsbD_spiCmd rd ms a (by decide : 7 < 8)]
    simp
  · simp only [getLsbD_spiCmd rd ms a (by decide : 6 < 8)]
    simp
  · simp [getLsbD_spiCmd rd ms a (by omega : k < 8), hk, show k ≠ 7 by omega, show k ≠ 6 by omega]

/-- Settles O9: on SPI by the frame byte of each address, on I2C as the address goes out unchanged. -/
theorem fixedFrames : Obligations.FixedFrames := by
  refine ⟨fun b => ?_, fun b => ⟨rfl, rfl, rfl, rfl, fun v => ⟨rfl, rfl⟩⟩⟩
  simp [readCall, writeCall, defaultCfg, spiCmd, bitByte, regId, regOutXL, burstLen]

/-- Settles O16: the codes of rule R71, compared two by two. -/
theorem statusCodes : Obligations.StatusCodes := by
  refine ⟨rfl, rfl, rfl, rfl, rfl, rfl, fun st => ?_, fun st st' => ?_⟩
  · cases st <;> decide
  · cases st <;> cases st' <;> decide

end Sys2Proof.Machine

/-! PROOFS. The framing (40_framing.md): the frames of the two buses, the commands of one access when it succeeds and when it
fails, and the transport call that never returns. -/

namespace Sys2Proof.Machine

/-! ### The framed accesses (rules R93 to R96) -/

theorem and_lowSix_of_le {r : Byte} (h : r.toNat ≤ 0x3F) : r &&& 0x3F#8 = r := by
  apply BitVec.eq_of_toNat_eq
  rw [BitVec.toNat_and, show (0x3F#8).toNat = 2 ^ 6 - 1 from rfl, Nat.and_two_pow_sub_one_eq_mod]
  exact Nat.mod_eq_of_lt (by omega)

/-- The first byte of a read frame of a register that SPI reaches (rules R73, R74). -/
theorem spiCmd_read {r : Byte} (h : r.toNat ≤ 0x3F) (n : Nat) :
    spiCmd true (decide (1 < n)) r = 0x80#8 ||| (if 1 < n then 0x40#8 else 0x00#8) ||| r := by
  rw [spiCmd, and_lowSix_of_le h]
  by_cases hn : 1 < n <;> simp [hn, bitByte]

/-- The first byte of a write frame is the register itself (rules R73, R75). -/
theorem spiCmd_write {r : Byte} (h : r.toNat ≤ 0x3F) : spiCmd false false r = r := by
  rw [spiCmd, and_lowSix_of_le h]
  simp [bitByte]

section
variable {s : State} (call : Call) (res : CallResult)

/-- On SPI an access is the call in its bracket, and leaves the line high (rules R97, R99). -/
theorem State.accessed_of_spi (h : s.cfg.bus = .spi) : s.accessed (frameEvents s.cfg call res) =
    { s with
      csLevel := .high
      trace := s.trace ++ [.csLow, .transport call res, .csHigh]
      oracle := s.oracle.drop 1
      calls := s.calls + 1 } := by
  simp [State.accessed, State.restLevel, frameEvents, h]

/-- On I2C an access is the call alone. -/
theorem State.accessed_of_i2c (h : s.cfg.bus = .i2c) : s.accessed (frameEvents s.cfg call res) =
    { s with
      trace := s.trace ++ [.transport call res]
      oracle := s.oracle.drop 1
      calls := s.calls + 1 } := by
  simp [State.accessed, State.restLevel, frameEvents, h]

end

/-- Settles O17: the one call of `memRead_of_ok` and `memRead_of_fail`, in its SPI bracket. -/
theorem spiReadFrame : Obligations.SpiReadFrame := by
  intro s r n b hbus hr _ _ c after
  have hcall : readCall s.cfg r n = .spiWriteThenRead [c] n := by simp only [readCall, hbus, spiCmd_read hr, c]
  refine ⟨fun h => ?_, fun h => ?_⟩
  · rw [memRead_of_ok r n h, readOk, hcall, State.accessed_of_spi _ _ hbus]
  · rw [memRead_of_fail r n h, readFail, hcall, State.accessed_of_spi _ _ hbus]

/-- Settles O18: the one call of `memRead_of_ok` and `memRead_of_fail`, with no bracket on I2C. -/
theorem i2cReadFrame : Obligations.I2cReadFrame := by
  intro s r n b hbus _ _ after
  have hcall : readCall s.cfg r n = .i2cWriteThenRead s.cfg.devAddr [r] n := by simp only [readCall, hbus]
  refine ⟨fun h => ?_, fun h => ?_⟩
  · rw [memRead_of_ok r n h, readOk, hcall, State.accessed_of_i2c _ _ hbus]
  · rw [memRead_of_fail r n h, readFail, hcall, State.accessed_of_i2c _ _ hbus]

/-- Settles O19: the one call of `memWrite_of_ok` and `memWrite_of_fail`, on each bus. -/
theorem writeFrames : Obligations.WriteFrames := by
  intro s r b rx
  constructor
  · intro hbus hr after
    have hcall : writeCall s.cfg r b = .spiWrite [r, b] := by simp only [writeCall, hbus, spiCmd_write hr]
    refine ⟨fun h => ?_, fun h => ?_⟩
    · rw [memWrite_of_ok r b h, writeOk, hcall, State.accessed_of_spi _ _ hbus]
    · rw [memWrite_of_fail r b h, writeFail, hcall, State.accessed_of_spi _ _ hbus]
  · intro hbus after
    have hcall : writeCall s.cfg r b = .i2cWrite s.cfg.devAddr [r, b] := by simp only [writeCall, hbus]
    refine ⟨fun h => ?_, fun h => ?_⟩
    · rw [memWrite_of_ok r b h, writeOk, hcall, State.accessed_of_i2c _ _ hbus]
    · rw [memWrite_of_fail r b h, writeFail, hcall, State.accessed_of_i2c _ _ hbus]

/-! ### The commands of one access (rules R100, R102, R114, R142) -/

theorem reaches_eq_true {b : Bus} {reg : Byte} (h : b = .spi → reg.toNat ≤ 0x3F) : b.reaches reg = true := by
  cases b with
  | i2c => rfl
  | spi => simpa [Bus.reaches] using h rfl

theorem wellFormed_rdreg {b : Bus} {reg : Byte} {len : BitVec 4} (h1 : 1 ≤ len.toNat) (h6 : len.toNat ≤ 6)
    (h : b = .spi → reg.toNat ≤ 0x3F) : (Instr.rdreg reg len).wellFormed b = true := by
  simp [Instr.wellFormed, h1, h6, reaches_eq_true h]

section
variable {i : Instr} {s : State} {evs : List Event}

/-- A command that completes after its one access. -/
theorem exec_of_ok_accessed {r : Resp} (ha : admission i s = none)
    (h : stepList i s.accept = .ok r (s.accept.accessed evs)) : exec i s = .next (s.ended 1 evs r) := by
  rw [exec_of_admitted ha, h]
  rfl

/-- A command that raises a status at its first access. -/
theorem exec_of_raised_accessed {st : Status} (ha : admission i s = none)
    (h : stepList i s.accept = .raised st (s.accept.accessed evs)) :
    exec i s = .next (s.ended 1 evs (bareResp st)) := by
  rw [exec_of_admitted ha, h]
  rfl

end

theorem stepList_rdreg (reg : Byte) (len : BitVec 4) (t : State) : stepList (.rdreg reg len) t =
    (memRead reg len.toNat t).andThen fun rx u => .ok (readResp len rx) u := rfl

theorem stepList_sample (t : State) : stepList .sample t =
    (memRead regOutXL burstLen t).andThen fun rx u => .ok (sampleResp u.cfg.frac.val u.fs rx) u := rfl

/-- Settles O29, from the read that returned `Ok`. -/
theorem rdregCompletes : Obligations.RdregCompletes := by
  intro s reg len b hready h1 h6 hreg hok
  refine exec_of_ok_accessed (admit_eq_none (wellFormed_rdreg h1 h6 hreg) rfl fun _ => hready) ?_
  rw [stepList_rdreg, memRead_of_ok (s := s.accept) reg len.toNat hok]
  rfl

/-- Settles O30, from the write that returned `Ok`: no register makes `WRREG` write `ST`. -/
theorem wrregCompletes : Obligations.WrregCompletes := by
  intro s reg data b hready hreg hok
  refine exec_of_ok_accessed (admit_eq_none (reaches_eq_true hreg) rfl fun _ => hready) ?_
  exact congrArg respondOk (memWrite_of_ok (s := s.accept) reg data hok)

/-- Settles O41: in each of the four commands the failing access is the first, and what follows it does not run. -/
theorem failedAccessIsTransport : Obligations.FailedAccessIsTransport := by
  intro s hready hfail
  have hfail : s.accept.answerAt 0 = .fail := hfail
  refine ⟨fun reg len h1 h6 hreg => ?_, fun reg data hreg => ?_, ?_, ?_⟩
  · refine exec_of_raised_accessed (admit_eq_none (wellFormed_rdreg h1 h6 hreg) rfl fun _ => hready) ?_
    rw [stepList_rdreg, memRead_of_fail reg len.toNat hfail]
    rfl
  · refine exec_of_raised_accessed (admit_eq_none (reaches_eq_true hreg) rfl fun _ => hready) ?_
    exact congrArg respondOk (memWrite_of_fail reg data hfail)
  · refine exec_of_raised_accessed (admit_eq_none rfl rfl fun _ => hready) ?_
    exact congrArg respondOk (verifyStep_of_fail hfail)
  · refine exec_of_raised_accessed (admit_eq_none rfl rfl fun _ => hready) ?_
    rw [stepList_sample, memRead_of_fail regOutXL burstLen hfail]
    rfl

/-! ### The call that never returns (rules R98, R211, R217) -/

theorem Run.andThen_assoc {α β γ : Type} (r : Run α) (f : α → State → Run β) (g : β → State → Run γ) :
    (r.andThen f).andThen g = r.andThen fun a s => (f a s).andThen g := by
  cases r <;> rfl

@[simp] theorem okEvents_nil (c : Cfg) (rx : Nat → Bytes6) : okEvents c rx [] = [] := rfl

/-- The events of the later calls take the later replies. -/
theorem okEvents_cons (c : Cfg) (rx : Nat → Bytes6) (call : Call) (cs : List Call) :
    okEvents c rx (call :: cs) =
      frameEvents c call (.ok (replyTo (rx 0) call)) ++ okEvents c (fun j => rx (j + 1)) cs := by
  simp [okEvents, List.zipIdx_cons, List.zipIdx_succ, List.flatMap_map]

/-- A call that never returns after one more access. -/
theorem State.accessed_hungIn (s : State) (evs es : List Event) (k : Nat) (c : Call) :
    (s.accessed evs).hungIn k es c = s.hungIn (k + 1) (evs ++ es) c := by
  have hlevel := s.accessed_callLevel evs
  simp only [State.hungIn, hlevel]
  simp [State.accessed, Nat.add_comm 1, Nat.add_assoc]

/-- The run `r` of an accepted command from `s`, whose calls to come are `cs` with the replies `rx`, hangs in call number `k` when
the calls before it return `Ok` and this one never does. -/
def HangsAt {α : Type} (rx : Nat → Bytes6) (cs : List Call) (k : Nat) (s : State) (r : Run α) : Prop :=
  ∀ c, s.resp = none → cs[k]? = some c → (∀ j, j < k → s.answerAt j = .ok (rx j)) → s.answerAt k = .never →
    r = .hung (s.hungIn k (okEvents s.cfg rx (cs.take k)) c)

section
variable {α : Type} {rx : Nat → Bytes6} {cs : List Call} {k : Nat} {s : State}

theorem HangsAt.nil (r : Run α) : HangsAt rx [] k s r := by
  intro c _ hc
  simp at hc

/-- A first access: either its call is the one that hangs, or the rest of the run hangs one call later. -/
theorem HangsAt.accessOutcome_andThen {call : Call} {n : Nat} {f : Bytes6 → State → Run α}
    (hreply : ∀ b, replyTo b call = (bytesList b).take n)
    (h : ∀ t m, k = m + 1 → t.cfg = s.cfg → HangsAt (fun j => rx (j + 1)) cs m t (f (rx 0) t)) :
    HangsAt rx (call :: cs) k s ((accessOutcome call n s).andThen f) := by
  intro c hresp hc hok hnever
  cases k with
  | zero =>
    obtain rfl : call = c := by simpa using hc
    simp [accessOutcome, hnever, State.stuckIn_eq_hungIn hresp]
  | succ m =>
    have hfirst : accessOutcome call n s =
        .ok (rx 0) (s.accessed (frameEvents s.cfg call (.ok (replyTo (rx 0) call)))) := by
      simp [accessOutcome, hok 0 m.succ_pos, hreply]
    have hrest := h (s.accessed (frameEvents s.cfg call (.ok (replyTo (rx 0) call)))) m rfl rfl c hresp
      (by simpa using hc) (fun j hj => by simpa using hok (j + 1) (by omega)) (by simpa using hnever)
    rw [hfirst, Run.ok_andThen, hrest]
    simp [State.accessed_hungIn, okEvents_cons]

theorem HangsAt.memRead_andThen {r : Byte} {n : Nat} {f : Bytes6 → State → Run α}
    (h : ∀ t m, k = m + 1 → t.cfg = s.cfg → HangsAt (fun j => rx (j + 1)) cs m t (f (rx 0) t)) :
    HangsAt rx (readCall s.cfg r n :: cs) k s ((memRead r n s).andThen f) := by
  rw [memRead_eq]
  exact .accessOutcome_andThen (replyTo_readCall s.cfg r n) h

theorem HangsAt.memWrite_andThen {r v : Byte} {f : Unit → State → Run α}
    (h : ∀ t m, k = m + 1 → t.cfg = s.cfg → HangsAt (fun j => rx (j + 1)) cs m t (f () t)) :
    HangsAt rx (writeCall s.cfg r v :: cs) k s ((memWrite r v s).andThen f) := by
  rw [memWrite_eq, Run.andThen_assoc]
  exact .accessOutcome_andThen (replyTo_writeCall s.cfg r v) h

/-- The write of a read-modify-write has the byte that its read gave. -/
theorem HangsAt.setField_andThen {reg mask : Byte} {pos : Nat} {val : Byte} {f : Unit → State → Run α}
    (h : ∀ t m, k = m + 2 → t.cfg = s.cfg → HangsAt (fun j => rx (j + 2)) cs m t (f () t)) :
    HangsAt rx (fieldCalls s.cfg reg mask pos val (rx 0).b0 ++ cs) k s ((setField reg mask pos val s).andThen f) := by
  rw [setField, Run.andThen_assoc]
  refine .memRead_andThen fun t m hm ht => ?_
  rw [← ht]
  exact .memWrite_andThen fun u l hl hu => h u l (by omega) (hu.trans ht)

/-- A read-modify-write after which no call follows. -/
theorem HangsAt.setField_last {reg mask : Byte} {pos : Nat} {val : Byte} (f : Unit → State → Run α) :
    HangsAt rx (fieldCalls s.cfg reg mask pos val (rx 0).b0) k s ((setField reg mask pos val s).andThen f) :=
  .setField_andThen (cs := []) fun _ _ _ _ => .nil _

/-- What follows the identity check runs only if it read 0x33 (rule R114). -/
theorem HangsAt.verifyStep_andThen {f : Unit → State → Run α} (hid : 0 < k → (rx 0).b0 = idExpect)
    (h : ∀ t m, k = m + 1 → t.cfg = s.cfg → HangsAt (fun j => rx (j + 1)) cs m t (f () t)) :
    HangsAt rx (readCall s.cfg regId 1 :: cs) k s ((verifyStep s).andThen f) := by
  rw [verifyStep, Run.andThen_assoc]
  refine .memRead_andThen fun t m hm ht => ?_
  rw [if_pos (hid (by omega))]
  exact h t m hm ht

/-- No call follows the identity check of `VERIFY`, whatever it read. -/
theorem HangsAt.verifyStep_last (f : Unit → State → Run α) :
    HangsAt rx [readCall s.cfg regId 1] k s ((verifyStep s).andThen f) := by
  rw [verifyStep, Run.andThen_assoc]
  exact .memRead_andThen fun _ _ _ _ => .nil _

theorem HangsAt.setFsStep_last (fs : FsCode) (f : Unit → State → Run α) :
    HangsAt rx (fieldCalls s.cfg s.cfg.regCtrlScale 0x30 4 (fs.setWidth 8) (rx 0).b0) k s
      ((setFsStep fs s).andThen f) := by
  rw [setFsStep, Run.andThen_assoc]
  exact .setField_last _

/-- `INIT` from its identity read on (rule R128). -/
theorem HangsAt.verify_powerOn_setFs_last (fs : FsCode) (f : Unit → State → Run α) (hid : 0 < k → (rx 0).b0 = idExpect) :
    HangsAt rx (readCall s.cfg regId 1 :: fieldCalls s.cfg s.cfg.regCtrlRate 0xF0 4 7 (rx 1).b0 ++
        fieldCalls s.cfg s.cfg.regCtrlScale 0x30 4 (fs.setWidth 8) (rx 3).b0) k s
      ((verifyStep s).andThen fun _ u => (powerOnStep u).andThen fun _ v => (setFsStep fs v).andThen f) := by
  refine .verifyStep_andThen hid fun t m hm ht => ?_
  rw [← ht]
  refine .setField_andThen fun u l hl hu => ?_
  rw [← hu]
  exact .setFsStep_last fs f

/-- `INIT` on I2C starts with its identity read, on SPI with the protocol bit (rule R128). -/
theorem HangsAt.initSteps_last (fs : FsCode) (f : Unit → State → Run α)
    (hid : identityCall s.cfg.bus < k → (rx (identityCall s.cfg.bus)).b0 = idExpect) :
    HangsAt rx (callsIn s.cfg rx (.init fs)) k (s.setInitOk false) ((initSteps fs s).andThen f) := by
  simp only [initSteps, Run.andThen_assoc]
  cases hb : s.cfg.bus with
  | i2c =>
    rw [forceFourWireStep_of_i2c (s := s.setInitOk false) hb]
    simp only [callsIn, identityCall, hb] at hid ⊢
    exact .verify_powerOn_setFs_last fs _ hid
  | spi =>
    rw [forceFourWireStep_of_spi (s := s.setInitOk false) hb]
    simp only [callsIn, identityCall, hb, List.append_assoc] at hid ⊢
    refine .setField_andThen fun t m hm ht => ?_
    rw [← show t.cfg = s.cfg from ht]
    exact .verify_powerOn_setFs_last fs _ fun hm0 => hid (by omega)

end

/-- The calls of every step list are those of the table of rule R41. -/
theorem stepList_hangsAt (i : Instr) (s : State) (rx : Nat → Bytes6) (k : Nat)
    (hid : (∃ f, i = .init f) → identityCall s.cfg.bus < k → (rx (identityCall s.cfg.bus)).b0 = idExpect) :
    HangsAt rx (callsIn s.cfg rx i) k (startOf i s) (stepList i s.accept) := by
  cases i with
  | rdreg reg len => exact .memRead_andThen fun _ _ _ _ => .nil _
  | wrreg reg data => exact .memWrite_andThen fun _ _ _ _ => .nil _
  | verify => exact .verifyStep_last _
  | setrate mode => exact .setField_last _
  | pwron => exact .setField_last _
  | pwroff => exact .setField_last _
  | setfs fs => exact .setFsStep_last fs _
  | setspi mode => exact .setField_last _
  | init fs => exact .initSteps_last (s := s.accept) fs _ (hid ⟨fs, rfl⟩)
  | sample => exact .memRead_andThen fun _ _ _ _ => .nil _

/-- The state that a hanging command leaves: `INIT` alone has cleared `INIT_OK`. -/
theorem startOf_hungIn (i : Instr) (s : State) (k : Nat) (evs : List Event) (c : Call) :
    (startOf i s).hungIn k evs c =
      { s.hungIn k evs c with initOk := if needsReady i then s.initOk else false } := by
  cases i <;> rfl

theorem ne_init_of_needsReady {i : Instr} (h : needsReady i = true) (f : FsCode) : i ≠ .init f := by
  rintro rfl
  simp [needsReady] at h

/-- Settles O48: the admitted command hangs by `stepList_hangsAt`, and a waiting block takes no step. -/
theorem neverReturningCall : Obligations.NeverReturningCall := by
  intro i s rx k c hw hsetspi hready hc hok hnever hid t
  have ha : admission i s = none :=
    admit_eq_none hw (unsupported_eq_false hsetspi) fun h => hready (ne_init_of_needsReady h)
  have hanswer : ∀ j, (startOf i s).answerAt j = s.answerAt j := fun j => by simp [State.answerAt]
  have hhang := stepList_hangsAt i s rx k hid c (startOf_resp i s) hc (fun j hj => (hanswer j).trans (hok j hj))
    ((hanswer k).trans hnever)
  refine ⟨?_, stepWaits t (.inr ⟨c, rfl⟩)⟩
  rw [exec_of_admitted ha, hhang, Run.hung_finish, startOf_hungIn, startOf_cfg]

end Sys2Proof.Machine

/-! PROOFS. The controller (41_controller.md): `insert`, the read-modify-write, `VERIFY`, the rate, range and protocol
commands, and `INIT`, when their accesses succeed and when one of them fails. -/

namespace Sys2Proof.Machine

/-! ### The field of a control register (rule R112) -/

theorem getLsbD_insertField (cur mask : Byte) (pos : Nat) (val : Byte) (k : Nat) :
    (insertField cur mask pos val).getLsbD k = if mask.getLsbD k then (val <<< pos).getLsbD k else cur.getLsbD k := by
  have hbit : (insertField cur mask pos val).getLsbD k =
      (cur.getLsbD k && (decide (k < 8) && !mask.getLsbD k) || (val <<< pos).getLsbD k && mask.getLsbD k) := by
    simp only [insertField, BitVec.getLsbD_or, BitVec.getLsbD_and, BitVec.getLsbD_not]
  rw [hbit]
  cases mask.getLsbD k with
  | true => simp
  | false => simpa using fun h : cur.getLsbD k = true => BitVec.lt_of_getLsbD h

/-- The mask of the protocol field has the one bit of its position. -/
theorem getLsbD_simMask (c : Cfg) (k : Nat) : (simMask c).getLsbD k = decide (k = c.simBit.val) := by
  rw [show simMask c = BitVec.twoPow 8 c.simBit.val from rfl, BitVec.getLsbD_twoPow]
  simp [eq_comm]

/-- Settles O7: `insert` bit by bit, and the masks as rule R112 gives them. -/
theorem insertKeepsOtherBits : Obligations.InsertKeepsOtherBits := by
  refine ⟨fun cur mask pos val => ⟨?_, getLsbD_insertField cur mask pos val⟩, rfl, rfl, rfl, rfl, getLsbD_simMask, rfl,
    rfl⟩
  have hones : ~~~mask &&& 0xFF#8 = ~~~mask := BitVec.and_allOnes
  rw [insertField, hones]

/-- A mode fills the data-rate field and no other bit. -/
theorem insertField_rate (cur : Byte) (mode : BitVec 4) :
    insertField cur 0xF0 4 (mode.setWidth 8) = (cur &&& 0x0F#8) ||| (mode.setWidth 8 <<< 4) := by
  have hmode : ∀ m : BitVec 4, (m.setWidth 8 <<< 4) &&& 0xF0#8 = m.setWidth 8 <<< 4 := by decide
  exact congrArg ((cur &&& 0x0F#8) ||| ·) (hmode mode)

/-- A full-scale code fills the full-scale field and no other bit. -/
theorem insertField_fs (cur : Byte) (f : FsCode) :
    insertField cur 0x30 4 (f.setWidth 8) = (cur &&& 0xCF#8) ||| (f.setWidth 8 <<< 4) := by
  have hcode : ∀ g : FsCode, (g.setWidth 8 <<< 4) &&& 0x30#8 = g.setWidth 8 <<< 4 := by decide
  exact congrArg ((cur &&& 0xCF#8) ||| ·) (hcode f)

/-! ### Accesses in a row -/

/-- `s` after `k` transport calls that returned, with their events; the line is at rest if there was one. -/
def State.passed (s : State) (k : Nat) (evs : List Event) : State :=
  { s with
    csLevel := if k = 0 then s.csLevel else s.restLevel
    trace := s.trace ++ evs
    oracle := s.oracle.drop k
    calls := s.calls + k }

section
variable (s : State) (k : Nat) (evs es : List Event)

@[simp] theorem State.passed_cfg : (s.passed k evs).cfg = s.cfg := rfl

theorem State.passed_zero : s.passed 0 [] = s := by simp [State.passed]

@[simp] theorem State.passed_answerAt (j : Nat) : (s.passed k evs).answerAt j = s.answerAt (k + j) := by
  simp [State.answerAt, State.passed, Nat.add_assoc]

@[simp] theorem State.passed_restLevel : (s.passed k evs).restLevel = s.restLevel := by
  cases hb : s.cfg.bus <;> simp [State.restLevel, State.passed, hb]

theorem State.passed_accessed : (s.passed k evs).accessed es = s.passed (k + 1) (evs ++ es) := by
  rw [State.accessed, State.passed_restLevel]
  simp [State.passed, Nat.add_assoc]

theorem State.accessed_accessed : (s.accessed evs).accessed es = s.passed 2 (evs ++ es) := s.passed_accessed 1 evs es

end

/-- Settles O20: the write takes the byte that the read gave, and a failed access is the last. -/
theorem readModifyWriteSteps : Obligations.ReadModifyWriteSteps := by
  intro s reg mask pos val b c after new
  refine ⟨fun h0 h1 => ?_, setField_of_read_fail reg mask pos val, fun h0 h1 => ?_⟩
  · rw [setField_of_ok reg mask pos val h0 h1, State.accessed_accessed]
    rfl
  · rw [setField_of_write_fail reg mask pos val h0 h1, State.accessed_accessed]
    rfl

/-! ### A command on its way

It has made `k` accesses with the events `evs`, its next step is the hypothesis `h`'s, and `f` is the rest of its step list. -/

@[simp] theorem startOf_answerAt (i : Instr) (s : State) (k : Nat) : (startOf i s).answerAt k = s.answerAt k := by
  cases i <;> rfl

/-- What a command that ended after its accesses leaves; `INIT` alone has cleared `INIT_OK` at its start. -/
theorem State.passed_respond (i : Instr) (s : State) (k : Nat) (evs : List Event) (r : Resp) :
    ((startOf i s).passed (k + 1) evs).respond r =
      { s.ended (k + 1) evs r with initOk := (startOf i s).initOk } := by
  cases i <;> rfl

section
variable {i : Instr} {s : State} {k : Nat} {evs : List Event} {b b' : Bytes6} {f : Unit → State → Run Resp}

section
variable {reg mask : Byte} {pos : Nat} {val : Byte}
  (h : exec i s = .next ((setField reg mask pos val ((startOf i s).passed k evs)).andThen f).finish)
include h

theorem exec_field_of_ok (h0 : s.answerAt k = .ok b) (h1 : s.answerAt (k + 1) = .ok b') :
    exec i s = .next (f () ((startOf i s).passed (k + 2)
      (evs ++ readOk s.cfg reg 1 b ++ writeOk s.cfg reg (insertField b.b0 mask pos val)))).finish := by
  rw [h, setField_of_ok (b := b) (b' := b') _ _ _ _ (by simpa using h0) (by simpa using h1)]
  simp [State.passed_accessed]

theorem exec_field_of_read_fail (h0 : s.answerAt k = .fail) :
    exec i s = .next { s.ended (k + 1) (evs ++ readFail s.cfg reg 1) (bareResp .transport) with
      initOk := (startOf i s).initOk } := by
  rw [h, setField_of_read_fail _ _ _ _ (by simpa using h0)]
  simp [State.passed_accessed, State.passed_respond]

theorem exec_field_of_write_fail (h0 : s.answerAt k = .ok b) (h1 : s.answerAt (k + 1) = .fail) :
    exec i s = .next { s.ended (k + 2) (evs ++ readOk s.cfg reg 1 b ++
      writeFail s.cfg reg (insertField b.b0 mask pos val)) (bareResp .transport) with
      initOk := (startOf i s).initOk } := by
  rw [h, setField_of_write_fail (b := b) _ _ _ _ (by simpa using h0) (by simpa using h1)]
  simp [State.passed_accessed, State.passed_respond]

end

section
variable (h : exec i s = .next ((verifyStep ((startOf i s).passed k evs)).andThen f).finish)
include h

theorem exec_identity_of_match (h0 : s.answerAt k = .ok b) (hid : b.b0 = idExpect) :
    exec i s = .next (f () ((startOf i s).passed (k + 1) (evs ++ readOk s.cfg regId 1 b))).finish := by
  rw [h, verifyStep_of_match (b := b) (by simpa using h0) hid]
  simp [State.passed_accessed]

theorem exec_identity_of_mismatch (h0 : s.answerAt k = .ok b) (hid : b.b0 ≠ idExpect) :
    exec i s = .next { s.ended (k + 1) (evs ++ readOk s.cfg regId 1 b) (bareResp .deviceMismatch) with
      initOk := (startOf i s).initOk } := by
  rw [h, verifyStep_of_mismatch (b := b) (by simpa using h0) hid]
  simp [State.passed_accessed, State.passed_respond]

theorem exec_identity_of_fail (h0 : s.answerAt k = .fail) :
    exec i s = .next { s.ended (k + 1) (evs ++ readFail s.cfg regId 1) (bareResp .transport) with
      initOk := (startOf i s).initOk } := by
  rw [h, verifyStep_of_fail (by simpa using h0)]
  simp [State.passed_accessed, State.passed_respond]

end
end

theorem exec_of_admitted_passed {i : Instr} {s : State} {run : State → Run Resp} (ha : admission i s = none)
    (h : stepList i s.accept = run (startOf i s)) : exec i s = .next (run ((startOf i s).passed 0 [])).finish := by
  rw [exec_of_admitted ha, h, State.passed_zero]

/-! ### `VERIFY` (rule R114) -/

theorem exec_verify {s : State} (hready : s.initOk = true) : exec .verify s =
    .next (respondOk (verifyStep ((startOf .verify s).passed 0 []))).finish :=
  exec_of_admitted_passed (run := fun t => respondOk (verifyStep t)) (admit_eq_none rfl rfl fun _ => hready) rfl

/-- Settles O31: by the byte read, the identity check passes or raises `DEVICE_MISMATCH`. -/
theorem verifyCompletes : Obligations.VerifyCompletes := by
  intro s b hready h0
  by_cases hid : b.b0 = 0x33
  · rw [if_pos hid]
    exact exec_identity_of_match (exec_verify hready) h0 hid
  · rw [if_neg hid]
    exact exec_identity_of_mismatch (exec_verify hready) h0 hid

/-! ### `SETRATE`, `PWRON` and `PWROFF` (rules R118, R119) -/

theorem exec_pwron (s : State) : exec .pwron s = exec (.setrate 7) s := rfl

theorem exec_pwroff (s : State) : exec .pwroff s = exec (.setrate 0) s := rfl

/-- Settles O6: the pseudo-commands unfold to the words and step lists of their `SETRATE`. -/
theorem powerCommandsAreSetrate : Obligations.PowerCommandsAreSetrate :=
  ⟨rfl, rfl, exec_pwron, exec_pwroff, fun _ => rfl, rfl, rfl⟩

/-- What holds of every legal `SETRATE` holds of the two pseudo-commands. -/
theorem exec_rateCommands {s : State} {after : BitVec 4 → State}
    (h : ∀ mode : BitVec 4, mode.toNat ≤ 9 → exec (.setrate mode) s = .next (after mode)) :
    (∀ mode : BitVec 4, mode.toNat ≤ 9 → exec (.setrate mode) s = .next (after mode)) ∧
      exec .pwron s = .next (after 7) ∧ exec .pwroff s = .next (after 0) :=
  ⟨h, (exec_pwron s).trans (h 7 (by decide)), (exec_pwroff s).trans (h 0 (by decide))⟩

theorem exec_setrate {s : State} {mode : BitVec 4} (hready : s.initOk = true) (hmode : mode.toNat ≤ 9) :
    exec (.setrate mode) s = .next (respondOk (setRateStep mode ((startOf (.setrate mode) s).passed 0 []))).finish :=
  exec_of_admitted_passed (run := fun t => respondOk (setRateStep mode t))
    (admit_eq_none (by simpa [Instr.wellFormed] using hmode) rfl fun _ => hready) rfl

/-- Settles O32: `SETRATE` by its read-modify-write, and the two pseudo-commands as it. -/
theorem rateCommandsComplete : Obligations.RateCommandsComplete := by
  intro s b c hready h0 h1 after
  refine exec_rateCommands fun mode hmode => ?_
  simp only [after, ← insertField_rate]
  exact exec_field_of_ok (exec_setrate hready hmode) h0 h1

/-- Settles O55: `SETRATE` by its failing access, and the two pseudo-commands as it. -/
theorem rateCommandsFail : Obligations.RateCommandsFail := by
  intro s b hready atRead atWrite
  refine ⟨fun h0 => exec_rateCommands fun mode hmode => exec_field_of_read_fail (exec_setrate hready hmode) h0,
    fun h0 h1 => exec_rateCommands fun mode hmode => ?_⟩
  simp only [atWrite, ← insertField_rate]
  exact exec_field_of_write_fail (exec_setrate hready hmode) h0 h1

/-! ### `SETFS` (rule R120) -/

/-- The step list of `SETFS` from its read-modify-write on. -/
def setFsSteps (f : FsCode) (s : State) : Run Resp :=
  (setField s.cfg.regCtrlScale fsMask fsPos (f.setWidth 8) s).andThen fun _ t => .ok (bareResp .ok) (t.setFs f)

theorem exec_setfs {s : State} (f : FsCode) (hready : s.initOk = true) :
    exec (.setfs f) s = .next (setFsSteps f ((startOf (.setfs f) s).passed 0 [])).finish :=
  exec_of_admitted_passed (admit_eq_none rfl rfl fun _ => hready) (Run.andThen_assoc ..)

/-- Settles O33: `FS` is written after the two accesses. -/
theorem setfsCompletes : Obligations.SetfsCompletes := by
  intro s f b c hready h0 h1
  rw [← insertField_fs]
  exact exec_field_of_ok (exec_setfs f hready) h0 h1

/-- Settles O34: the step that writes `FS` comes after the failing access. -/
theorem setfsFailureKeepsTheRange : Obligations.SetfsFailureKeepsTheRange := by
  intro s f b hready
  exact ⟨exec_field_of_read_fail (exec_setfs f hready), exec_field_of_write_fail (exec_setfs f hready)⟩

/-! ### `SETSPI` (rule R124) -/

theorem exec_setspi {s : State} (hready : s.initOk = true) (hb : s.cfg.bus = .spi) : exec (.setspi .fourWire) s =
    .next (respondOk (setSpi4Step ((startOf (.setspi .fourWire) s).passed 0 []))).finish :=
  exec_of_admitted_passed (run := fun t => respondOk (setSpi4Step t))
    (admit_eq_none rfl (by rw [hb]; rfl) fun _ => hready) rfl

/-- Settles O35, from the read-modify-write of the protocol bit. -/
theorem setspiCompletes : Obligations.SetspiCompletes := by
  intro s b c hready hb h0 h1
  exact exec_field_of_ok (exec_setspi hready hb) h0 h1

/-- Settles O56, from the read-modify-write of the protocol bit. -/
theorem setspiFails : Obligations.SetspiFails := by
  intro s b hready hb
  exact ⟨exec_field_of_read_fail (exec_setspi hready hb), exec_field_of_write_fail (exec_setspi hready hb)⟩

/-- Settles O27: the operands are legal, and the variant check comes before the ready check. -/
theorem setspiIsRefused : Obligations.SetspiIsRefused := by
  intro s mode h
  have hunsupported : unsupported s.cfg.bus (.setspi mode) = true := by simpa [unsupported] using h
  exact exec_of_refused (by simp [admission, checkOperands, hunsupported])

/-! ### `INIT` (rule R128) -/

/-- The step list of `INIT` from its range step on. -/
def initFromScale (f : FsCode) (s : State) : Run Resp :=
  (setField s.cfg.regCtrlScale fsMask fsPos (f.setWidth 8) s).andThen fun _ t =>
    .ok (bareResp .ok) ((t.setFs f).setInitOk true)

/-- The step list of `INIT` from its power-on step on. -/
def initFromRate (f : FsCode) (s : State) : Run Resp := (powerOnStep s).andThen fun _ t => initFromScale f t

/-- The step list of `INIT` from its identity read on: all of it on I2C. -/
def initFromIdentity (f : FsCode) (s : State) : Run Resp := (verifyStep s).andThen fun _ t => initFromRate f t

theorem stepList_init (f : FsCode) (s : State) : stepList (.init f) s =
    (forceFourWireStep (s.setInitOk false)).andThen fun _ t => initFromIdentity f t := by
  simp only [stepList, respondOk, initSteps, setFsStep, Run.andThen_assoc]
  rfl

theorem exec_init_i2c {s : State} (f : FsCode) (hb : s.cfg.bus = .i2c) :
    exec (.init f) s = .next (initFromIdentity f ((startOf (.init f) s).passed 0 [])).finish := by
  refine exec_of_admitted_passed (admit_eq_none rfl rfl nofun) ?_
  rw [stepList_init, forceFourWireStep_of_i2c (s := s.accept.setInitOk false) hb]
  rfl

/-- On SPI the protocol bit is forced first (decision D12). -/
theorem exec_init_spi {s : State} (f : FsCode) (hb : s.cfg.bus = .spi) : exec (.init f) s =
    .next ((setSpi4Step ((startOf (.init f) s).passed 0 [])).andThen fun _ t => initFromIdentity f t).finish := by
  refine exec_of_admitted_passed (run := fun u => (setSpi4Step u).andThen fun _ t => initFromIdentity f t)
    (admit_eq_none rfl rfl nofun) ?_
  rw [stepList_init, forceFourWireStep_of_spi (s := s.accept.setInitOk false) hb]
  rfl

/-- Settles O36: from the identity read on, every step completes. -/
theorem initCompletesOnI2c : Obligations.InitCompletesOnI2c := by
  intro s f b0 b1 b2 b3 b4 hb h0 hid h1 h2 h3 h4
  have hrate := exec_identity_of_match (exec_init_i2c f hb) h0 hid
  have hscale := exec_field_of_ok hrate h1 h2
  have hend := exec_field_of_ok hscale h3 h4
  simp only [← List.append_assoc]
  exact hend

/-- Settles O37: from the protocol bit on, every step completes. -/
theorem initCompletesOnSpi : Obligations.InitCompletesOnSpi := by
  intro s f b0 b1 b2 b3 b4 b5 b6 hb h0 h1 h2 hid h3 h4 h5 h6
  have hidentity := exec_field_of_ok (exec_init_spi f hb) h0 h1
  have hrate := exec_identity_of_match hidentity h2 hid
  have hscale := exec_field_of_ok hrate h3 h4
  have hend := exec_field_of_ok hscale h5 h6
  simp only [← List.append_assoc]
  exact hend

/-- Settles O38: the identity read is the first access on I2C, and on SPI the first after the protocol bit. -/
theorem initStopsOnMismatch : Obligations.InitStopsOnMismatch := by
  refine ⟨fun s f b hb h0 hid => exec_identity_of_mismatch (exec_init_i2c f hb) h0 hid,
    fun s f b0 b1 b2 hb h0 h1 h2 hid => ?_⟩
  have hidentity := exec_field_of_ok (exec_init_spi f hb) h0 h1
  rw [← List.append_assoc]
  exact exec_identity_of_mismatch hidentity h2 hid

/-- Settles O57: each step is reached when the ones before it completed, and ends the command when it fails. -/
theorem initFailsOnI2c : Obligations.InitFailsOnI2c := by
  intro s f b0 b1 b2 b3 hb c endsAt identity rateRead rate scaleRead
  have hidentity := exec_init_i2c f hb
  refine ⟨exec_identity_of_fail hidentity, fun h0 hid => ?_⟩
  have hrate := exec_identity_of_match hidentity h0 hid
  refine ⟨exec_field_of_read_fail hrate, fun h1 => ⟨exec_field_of_write_fail hrate h1, fun h2 => ?_⟩⟩
  have hscale := exec_field_of_ok hrate h1 h2
  exact ⟨exec_field_of_read_fail hscale, exec_field_of_write_fail hscale⟩

/-- Settles O58: as on I2C, behind the protocol bit. -/
theorem initFailsOnSpi : Obligations.InitFailsOnSpi := by
  intro s f b0 b1 b2 b3 b4 b5 hb c endsAt simRead sim fourWire identity rateRead rate powered
  have hsim := exec_init_spi f hb
  refine ⟨exec_field_of_read_fail hsim, fun h0 => ⟨exec_field_of_write_fail hsim h0, fun h1 => ?_⟩⟩
  have hidentity := exec_field_of_ok hsim h0 h1
  refine ⟨exec_identity_of_fail hidentity, fun h2 hid => ?_⟩
  have hrate := exec_identity_of_match hidentity h2 hid
  refine ⟨exec_field_of_read_fail hrate, fun h3 => ⟨exec_field_of_write_fail hrate h3, fun h4 => ?_⟩⟩
  have hscale := exec_field_of_ok hrate h3 h4
  exact ⟨exec_field_of_read_fail hscale, exec_field_of_write_fail hscale⟩

end Sys2Proof.Machine

/-! PROOFS. The sample (42_sample.md): the assembly of an axis, the scaler as the nearest integer to the exact line, its
shape and its range, and the command `SAMPLE`. -/

namespace Sys2Proof.Machine

/-! ### Assembly (rule R146) -/

theorem assemble_eq_append (lo hi : Byte) : assemble lo hi = hi ++ lo := by
  rw [assemble, ← BitVec.setWidth_append_eq_shiftLeft_setWidth_or]
  exact BitVec.setWidth_eq (hi ++ lo)

theorem toNat_assemble (lo hi : Byte) : (assemble lo hi).toNat = hi.toNat * 256 + lo.toNat := by
  rw [assemble_eq_append, BitVec.toNat_append, ← Nat.shiftLeft_add_eq_or_of_lt lo.isLt, Nat.shiftLeft_eq]

/-- The bytes of a pair are the quotient and the remainder of its code by 256. -/
theorem bijective_assemble : Function.Bijective fun p : Byte × Byte => assemble p.1 p.2 := by
  constructor
  · rintro ⟨lo, hi⟩ ⟨lo', hi'⟩ h
    have hcode : hi.toNat * 256 + lo.toNat = hi'.toNat * 256 + lo'.toNat := by
      simpa only [toNat_assemble] using congrArg BitVec.toNat h
    have hlo : lo = lo' := BitVec.eq_of_toNat_eq (by omega)
    have hhi : hi = hi' := BitVec.eq_of_toNat_eq (by omega)
    rw [hlo, hhi]
  · intro v
    refine ⟨(BitVec.ofNat 8 v.toNat, BitVec.ofNat 8 (v.toNat / 256)), BitVec.eq_of_toNat_eq ?_⟩
    simp only [toNat_assemble, BitVec.toNat_ofNat]
    omega

/-- The sign is bit 15 of the word, which is bit 7 of the high byte. -/
theorem toInt_assemble (lo hi : Byte) : (assemble lo hi).toInt =
    if hi.toNat < 128 then (hi.toNat * 256 + lo.toNat : Int) else (hi.toNat * 256 + lo.toNat : Int) - 65536 := by
  have hsign : 2 * (assemble lo hi).toNat < 2 ^ 16 ↔ hi.toNat < 128 := by rw [toNat_assemble]; omega
  rw [BitVec.toInt_eq_toNat_cond, if_congr hsign rfl rfl, toNat_assemble]
  push_cast
  rfl

/-- Settles O10, from the word as a number and its sign. -/
theorem assembleIsLowByteFirst : Obligations.AssembleIsLowByteFirst :=
  ⟨fun lo hi => ⟨toNat_assemble lo hi, toInt_assemble lo hi⟩, bijective_assemble, fun _ => rfl⟩

/-! ### The numerator of the scaler (rules R150, R152) -/

/-- `N = L * (2v + 1) * 2^FRAC`, so that `ideal * 2^FRAC` is `N / 65535` (rule R152). -/
def scaleNum (frac : Nat) (v : Int) (f : FsCode) : Int := limit f * (2 * v + 1) * 2 ^ frac

theorem two_le_limit : ∀ f : FsCode, 2 ≤ limit f := by decide

theorem limit_le_sixteen : ∀ f : FsCode, limit f ≤ 16 := by decide

theorem limit_succ : ∀ f : FsCode, f.toNat < 3 → limit (f + 1) = 2 * limit f := by decide

section
variable (frac : Nat) (v : Int) (f : FsCode)

theorem scaleNum_eq : scaleNum frac v f = (2 * v + 1) * (limit f * 2 ^ frac) := by
  rw [scaleNum]; ring

theorem scaleNum_neg_sub_one : scaleNum frac (-v - 1) f = -scaleNum frac v f := by
  rw [scaleNum, scaleNum]; ring

theorem scaleNum_mono {v w : Int} (h : v ≤ w) : scaleNum frac v f ≤ scaleNum frac w f := by
  have hlimit := two_le_limit f
  rw [scaleNum_eq, scaleNum_eq]
  gcongr

/-- One range up the line is twice as steep. -/
theorem scaleNum_succ {f : FsCode} (hf : f.toNat < 3) : scaleNum frac v (f + 1) = 2 * scaleNum frac v f := by
  rw [scaleNum, limit_succ f hf, scaleNum]; ring

/-! ### The scaled integer is the nearest one (rules R152, R154) -/

/-- `n` is the result exactly when `N / 65535` is off `n` by at most 32767 of 65535 parts: 65535 is odd, so there
is no tie. -/
theorem scaleInt_eq_iff {n : Int} :
    scaleInt frac v f = n ↔ -32767 ≤ scaleNum frac v f - 65535 * n ∧ scaleNum frac v f - 65535 * n ≤ 32767 := by
  rw [scaleInt, ← scaleNum, Int.ediv_eq_iff_of_pos (by decide)]
  omega

/-- What the rounding leaves of the numerator. -/
theorem scaleInt_remainder : -32767 ≤ scaleNum frac v f - 65535 * scaleInt frac v f ∧
    scaleNum frac v f - 65535 * scaleInt frac v f ≤ 32767 := (scaleInt_eq_iff frac v f).1 rfl

theorem scaleInt_upper : scaleInt frac 32767 f = limit f * 2 ^ frac := by
  have hnum : scaleNum frac 32767 f = 65535 * (limit f * 2 ^ frac) := scaleNum_eq frac 32767 f
  rw [scaleInt_eq_iff]
  omega

theorem scaleInt_neg_sub_one : scaleInt frac (-v - 1) f = -scaleInt frac v f := by
  have hrem := scaleInt_remainder frac v f
  rw [scaleInt_eq_iff, scaleNum_neg_sub_one]
  omega

/-- The lower end point is the mirror of the upper one. -/
theorem scaleInt_lower : scaleInt frac (-32768) f = -(limit f * 2 ^ frac) := by
  rw [← scaleInt_upper, ← scaleInt_neg_sub_one]
  rfl

theorem scaleInt_mono {v w : Int} (h : v ≤ w) : scaleInt frac v f ≤ scaleInt frac w f := by
  have hnum := scaleNum_mono frac f h
  have hv := scaleInt_remainder frac v f
  have hw := scaleInt_remainder frac w f
  omega

/-- At `FRAC` = 16 one code is at least four units of the line. -/
theorem scaleInt_sixteen_strictMono {v w : Int} (h : v < w) : scaleInt 16 v f < scaleInt 16 w f := by
  have hlimit := two_le_limit f
  have hslope : scaleNum 16 w f - scaleNum 16 v f = (w - v) * (131072 * limit f) := by
    rw [scaleNum, scaleNum]; ring
  have hgap : 262144 ≤ (w - v) * (131072 * limit f) := by nlinarith
  have hv := scaleInt_remainder 16 v f
  have hw := scaleInt_remainder 16 w f
  omega

theorem scaleInt_sixteen_zero : scaleInt 16 0 f = limit f := by
  have hnum : scaleNum 16 0 f = 65536 * limit f := by rw [scaleNum]; ring
  have hlow := two_le_limit f
  have hhigh := limit_le_sixteen f
  rw [scaleInt_eq_iff]
  omega

/-- Twice the rounded value and the rounded double leave remainders that together are less than two units. -/
theorem abs_scaleInt_succ_sub_le {f : FsCode} (hf : f.toNat < 3) :
    |scaleInt frac v (f + 1) - 2 * scaleInt frac v f| ≤ 1 := by
  have hnum := scaleNum_succ frac v hf
  have hone := scaleInt_remainder frac v f
  have htwo := scaleInt_remainder frac v (f + 1)
  rw [abs_le]
  omega

/-- The result of a 16-bit code lies between those of the two end points. -/
theorem scaleInt_toInt_mem_Icc (v : Raw) :
    scaleInt frac v.toInt f ∈ Set.Icc (-(limit f * 2 ^ frac)) (limit f * 2 ^ frac) := by
  constructor
  · rw [← scaleInt_lower]
    exact scaleInt_mono frac f v.le_toInt
  · rw [← scaleInt_upper]
    exact scaleInt_mono frac f (Int.le_sub_one_of_lt v.toInt_lt)

end

/-- Settles O13, from the remainder of the rounding. -/
theorem scaleShape : Obligations.ScaleShape :=
  ⟨fun frac f => ⟨scaleInt_upper frac f, scaleInt_lower frac f⟩, fun frac f v => scaleInt_neg_sub_one frac v f,
    fun frac f _ _ => scaleInt_mono frac f, fun f _ _ => scaleInt_sixteen_strictMono f⟩

/-- Settles O14: the limit is the slope of the line, and doubles with the range. -/
theorem scaleRangesNest : Obligations.ScaleRangesNest :=
  ⟨scaleInt_sixteen_zero, fun frac v _ => abs_scaleInt_succ_sub_le frac v⟩

/-! ### The exact line (rule R152) -/

theorem ideal_eq (v : Int) (f : FsCode) : ideal v f = limit f * (2 * v + 1) / 65535 := by
  rw [ideal]; ring

theorem ideal_mul_two_pow (frac : Nat) (v : Int) (f : FsCode) : ideal v f * 2 ^ frac = scaleNum frac v f / 65535 := by
  rw [ideal_eq, scaleNum]
  push_cast
  ring

/-- A remainder of at most 32767 of 65535 parts is less than one half. -/
theorem abs_scaleInt_sub_ideal_lt (frac : Nat) (v : Int) (f : FsCode) :
    |(scaleInt frac v f : ℚ) - ideal v f * 2 ^ frac| < 1 / 2 := by
  obtain ⟨hlow, hhigh⟩ := scaleInt_remainder frac v f
  have hlow : (-32767 : ℚ) ≤ scaleNum frac v f - 65535 * scaleInt frac v f := by exact_mod_cast hlow
  have hhigh : scaleNum frac v f - 65535 * scaleInt frac v f ≤ (32767 : ℚ) := by exact_mod_cast hhigh
  rw [ideal_mul_two_pow, abs_lt]
  constructor <;> linarith

/-- Settles O11: both end points of the line by its first form, the nearest integer by the remainder of the rounding. -/
theorem scaleIsNearestToTheLine : Obligations.ScaleIsNearestToTheLine := by
  intro frac v f
  refine ⟨ideal_eq v f, ?_, ?_, abs_scaleInt_sub_ideal_lt frac v f⟩
  · rw [ideal]; push_cast; ring
  · rw [ideal]; push_cast; ring

/-! ### The 32-bit register (rules R14, R152) -/

theorem limit_mul_two_pow_le (frac : Fin 27) (f : FsCode) : limit f * 2 ^ frac.val ≤ 2 ^ 30 :=
  calc limit f * 2 ^ frac.val
    _ ≤ 16 * 2 ^ 26 := mul_le_mul (limit_le_sixteen f) (pow_le_pow_right₀ (by decide) (Nat.le_of_lt_succ frac.isLt))
        (by positivity) (by decide)
    _ = 2 ^ 30 := by norm_num

/-- Settles O12: the largest result is `16 * 2^26 = 2^30`. -/
theorem scaleDoesNotWrap : Obligations.ScaleDoesNotWrap := by
  intro frac v f
  obtain ⟨hlow, hhigh⟩ := scaleInt_toInt_mem_Icc frac f v
  have hlimit := limit_mul_two_pow_le frac f
  exact ⟨BitVec.toInt_ofInt_eq_self (by decide) (by omega) (by omega), hlow, hhigh⟩

/-! ### The command `SAMPLE` (rules R142, R144) -/

/-- Settles O40, from the read that returned `Ok`: the response takes the six bytes as they are. -/
theorem sampleCompletes : Obligations.SampleCompletes := by
  intro s b hready hok
  refine exec_of_ok_accessed (admit_eq_none rfl rfl fun _ => hready) ?_
  rw [stepList_sample, memRead_of_ok (s := s.accept) regOutXL burstLen hok]
  rfl

end Sys2Proof.Machine

/-! PROOFS. What an ended command leaves (60_exceptions.md): the calls that it made, the answers that it used up, and the state
behind a status other than `OK`. -/

namespace Sys2Proof.Machine

/-! ### The calls in the record (rule R178) -/

/-- The call returned `Ok`, as `callsOf` records it. -/
def Access.returnedOk (p : Access) : Bool := decide (p.2 ≠ .fail)

theorem Access.returnedOk_eq_true {p : Access} (h : p.succeeded) : p.returnedOk = true := decide_eq_true h

theorem Access.returnedOk_eq_false {p : Access} (h : ¬ p.succeeded) : p.returnedOk = false := decide_eq_false h

theorem map_returnedOk_of_succeeded {ps : List Access} (h : ∀ p ∈ ps, p.succeeded) :
    ps.map Access.returnedOk = List.replicate ps.length true :=
  List.map_eq_replicate_iff.2 fun p hp => Access.returnedOk_eq_true (h p hp)

/-- The chip-select events round a call are no calls. -/
theorem callsOf_frameEvents_append (c : Cfg) (p : Access) (es : List Event) :
    callsOf (frameEvents c p.1 p.2 ++ es) = p.returnedOk :: callsOf es := by
  obtain ⟨call, res⟩ := p
  cases hb : c.bus <;> cases res <;> simp [frameEvents, hb, callsOf, Access.returnedOk]

theorem callsOf_accessEvents (c : Cfg) (ps : List Access) :
    callsOf (accessEvents c ps) = ps.map Access.returnedOk := by
  induction ps with
  | nil => rfl
  | cons p ps ih =>
    have hsplit : accessEvents c (p :: ps) = frameEvents c p.1 p.2 ++ accessEvents c ps := rfl
    rw [hsplit, callsOf_frameEvents_append, ih, List.map_cons]

/-- The new calls of a command are those of its accesses. -/
theorem Trail.new_calls {i : Instr} {s u : State} {ps : List Access} (h : Trail (startOf i s) u ps) :
    callsOf (u.trace.drop s.trace.length) = ps.map Access.returnedOk := by
  rw [h.new_events, callsOf_accessEvents]

/-! ### The command that ended (rules R176, R177) -/

/-- How a command ends, whatever its status: `u`, after the accesses `ps`, is the state before its response `r`. -/
structure Ended (i : Instr) (s u : State) (ps : List Access) (r : Resp) : Prop where
  trail : Trail (startOf i s) u ps
  results : ∃ n, ps.map Access.returnedOk = List.replicate n true ++ if r.status = .transport then [false] else []
  bare : r.status ≠ .ok → r = bareResp r.status
  fs : r.status ≠ .ok → u.fs = s.fs
  initOk : r.status ≠ .ok → u.initOk = (startOf i s).initOk

section
variable {i : Instr} {s u : State} {ps : List Access}

theorem EndedOk.ended {r : Resp} (h : EndedOk i s u ps r) (hu : Trail (startOf i s) u ps)
    (hps : ∀ p ∈ ps, p.succeeded) : Ended i s u ps r where
  trail := hu
  results := ⟨ps.length, by simp [map_returnedOk_of_succeeded hps, h.status]⟩
  bare hne := absurd h.status hne
  fs hne := absurd h.status hne
  initOk hne := absurd h.status hne

/-- A status raised by a check, of admission or of the identity byte, while every access succeeded. -/
theorem Ended.of_check {st : Status} (hu : Trail (startOf i s) u ps) (hps : ∀ p ∈ ps, p.succeeded)
    (hst : st ≠ .transport) (hfs : u.fs = s.fs) (hin : u.initOk = (startOf i s).initOk) :
    Ended i s u ps (bareResp st) where
  trail := hu
  results := ⟨ps.length, by simp [map_returnedOk_of_succeeded hps, bareResp, hst]⟩
  bare _ := rfl
  fs _ := hfs
  initOk _ := hin

theorem Ended.of_failed_access {q : Access} (hu : Trail (startOf i s) u (ps ++ [q])) (hps : ∀ p ∈ ps, p.succeeded)
    (hq : ¬ q.succeeded) (hfs : u.fs = s.fs) (hin : u.initOk = (startOf i s).initOk) :
    Ended i s u (ps ++ [q]) (bareResp .transport) where
  trail := hu
  results := ⟨ps.length, by simp [map_returnedOk_of_succeeded hps, Access.returnedOk_eq_false hq, bareResp]⟩
  bare _ := rfl
  fs _ := hfs
  initOk _ := hin

end

/-- A refusal responds where the accesses would have started (rule R174). -/
theorem refusedWith_eq_startOf_respond {i : Instr} (s : State) (st : Status) (hi : ∀ f, i ≠ .init f) :
    s.refusedWith st = (startOf i s).respond (bareResp st) := by
  cases i with
  | init f => exact absurd rfl (hi f)
  | _ => rfl

/-- Every outcome of `exec_cases` that presents a response, as one case. -/
theorem exec_ended {i : Instr} {s t : State} {r : Resp} (h : exec i s = .next t) (hr : t.resp = some r) :
    ∃ u ps, Ended i s u ps r ∧ t = u.respond r := by
  obtain ⟨st, hst, hni, rfl⟩ | ⟨u, ps, q, hu, hps, hok, rfl⟩ | ⟨u, ps, q, hu, hps, hq, hfs, hin, rfl⟩ |
    ⟨u, ps, hu, hps, hfs, hin, rfl⟩ | ⟨u, ps, c, hu, -, -, -, -, rfl⟩ := exec_cases h
  · cases hr
    have hcheck : st ≠ .transport := by rcases hst with rfl | rfl | rfl <;> decide
    exact ⟨_, [], .of_check (.refl _) (by simp) hcheck (startOf_fs i s) rfl, refusedWith_eq_startOf_respond s st hni⟩
  · cases hr
    exact ⟨u, ps, hok.ended hu hps, rfl⟩
  · cases hr
    exact ⟨u, _, .of_failed_access hu hps hq hfs hin, rfl⟩
  · cases hr
    exact ⟨u, ps, .of_check hu hps (by decide) hfs hin, rfl⟩
  · simp [hu.resp] at hr

/-- Settles O45: behind a status other than `OK`, `FS` and `INIT_OK` are those the accesses started with, and only `INIT` starts
them with `INIT_OK` cleared. -/
theorem failureLeaves : Obligations.FailureLeaves := by
  intro i s t r h hr hne
  obtain ⟨u, ps, hend, rfl⟩ := exec_ended h hr
  have hinit : u.initOk = (startOf i s).initOk := hend.initOk hne
  refine ⟨hend.fs hne, rfl, hend.bare hne, fun hi => hinit.trans (startOf_initOk s hi), ?_⟩
  rintro ⟨f, rfl⟩
  exact hinit

/-- Settles O46: the new calls are those of the command's accesses, each of which used up one answer. -/
theorem failuresArePrecise : Obligations.FailuresArePrecise := by
  intro i s t r h hr
  obtain ⟨u, ps, hend, rfl⟩ := exec_ended h hr
  obtain ⟨n, hresults⟩ := hend.results
  have hcalls : callsOf ((u.respond r).trace.drop s.trace.length) = ps.map Access.returnedOk := hend.trail.new_calls
  rw [hcalls, List.length_map]
  exact ⟨n, hresults, by simp [hend.trail.calls], by simp [hend.trail.oracle]⟩

end Sys2Proof.Machine

/-! PROOFS. What a command that answered `OK` did (70_reset_and_hazards.md): the transport calls it took, and the range that the
next `SAMPLE` scales with. -/

namespace Sys2Proof.Machine

/-- Of the outcomes of `exec_cases` only success answers `OK`. -/
theorem exec_endedOk {i : Instr} {s t : State} {r : Resp} (h : exec i s = .next t) (hr : t.resp = some r)
    (hstatus : r.status = .ok) : ∃ u ps, Trail (startOf i s) u ps ∧ (∀ p ∈ ps, p.succeeded) ∧ EndedOk i s u ps r ∧
      t = u.respond r := by
  obtain ⟨st, hst, -, rfl⟩ | ⟨u, ps, q, hu, hps, hok, rfl⟩ | ⟨u, ps, q, -, -, -, -, -, rfl⟩ |
    ⟨u, ps, -, -, -, -, rfl⟩ | ⟨u, ps, c, hu, -, -, -, -, rfl⟩ := exec_cases h
  · cases hr
    rcases hst with rfl | rfl | rfl <;> cases hstatus
  · cases hr
    exact ⟨u, ps, hu, hps, hok, rfl⟩
  · cases hr
    cases hstatus
  · cases hr
    cases hstatus
  · simp [hu.resp] at hr

/-- Settles O47: the new calls are those of the command's accesses, which all succeeded and whose number `EndedOk` has. -/
theorem callsOfSuccess : Obligations.CallsOfSuccess := by
  intro i s t r h hr hstatus
  obtain ⟨u, ps, hu, hps, hok, rfl⟩ := exec_endedOk h hr hstatus
  calc callsOf (u.trace.drop s.trace.length)
    _ = ps.map Access.returnedOk := hu.new_calls
    _ = List.replicate ps.length true := map_returnedOk_of_succeeded hps
    _ = List.replicate (callCount s.cfg.bus i) true := by rw [hok.count]

/-- Settles O42: `SETFS` leaves `FS` at its code and the parameters as they were, and `SAMPLE` scales by what it finds there. -/
theorem setfsThenSample : Obligations.SetfsThenSample := by
  intro s t u f r q hset hr hrok hsample hq hqok
  have hcfg : t.cfg = s.cfg := (exec_framed hset).cfg
  have hfs : t.fs = f := by
    obtain ⟨v, ps, -, -, hok, rfl⟩ := exec_endedOk hset hr hrok
    exact hok.fs
  obtain ⟨v, ps, -, -, hok, -⟩ := exec_endedOk hsample hq hqok
  simpa [hfs, hcfg] using hok.scaled rfl

end Sys2Proof.Machine
